-- ==== Sys2Proof/Word.lean ====
section
/-! DEFINITION. The bit widths of the block's values (R7, R24, R60, R100). -/

namespace Sys2Proof

/-- An event byte `E[7:0]` (R60). -/
abbrev Byte := BitVec 8

/-- An unsigned 16-bit word: a comparator value, a parameter, an `RD` answer (R4, R24, R43). -/
abbrev Word := BitVec 16

/-- One sample on the frame port: 16 bits, two's complement; its number is `BitVec.toInt` (R7, R100, R127). -/
abbrev Sample := BitVec 16

end Sys2Proof
end

