-- ==== Sys2Proof/Syntax.lean ====
section
/-! DEFINITION. The seven operations of the block (R11, R62), who causes each (R10), and the two fields of the event
byte (R60, R61). -/

namespace Sys2Proof

/-- The operations: one constructor per row of spec/opcode_table.json (R62). `rd` carries the only operand there is,
the 4-bit read index; all its 16 values are legal (R61, R63). -/
inductive Instr where
  | nop
  | start
  | stop
  | rd (idx : BitVec 4)
  | tick
  | service
  | reset
deriving DecidableEq, Repr

/-- What causes a step (R10). -/
inductive Agent where
  | timer
  | block
  | host
  | resetSource
deriving DecidableEq, Repr

/-- Who causes each operation: the column "who causes it" of R62. -/
def Instr.agent : Instr → Agent
  | .nop => .host
  | .start => .host
  | .stop => .host
  | .rd _ => .host
  | .tick => .timer
  | .service => .block
  | .reset => .resetSource

/-- The event byte as format `EVT`: operation code and operand field (R60). -/
structure EventFields where
  OP : BitVec 4
  IDX : BitVec 4
deriving DecidableEq, Repr

end Sys2Proof
end

