-- ==== Sys2Proof/Decode.lean ====
section
/-! DEFINITION. The event encoding: the operation map as a table of match and mask rows (R62), `decode` (R61, R64, R65),
the encoder, and the host's `decodeTableWord`. -/

namespace Sys2Proof

/-- `OP = E[7:4]` (R60). -/
def opOf (b : Byte) : BitVec 4 := b.extractLsb' 4 4

/-- `IDX = E[3:0]` (R60, R61). -/
def idxOf (b : Byte) : BitVec 4 := b.extractLsb' 0 4

/-- The byte as the format `EVT` (R60). -/
def EventFields.ofByte (b : Byte) : EventFields := { OP := opOf b, IDX := idxOf b }

/-- One row of the operation map (R62): its match and mask, and the operation its `IDX` field spells. -/
structure OpRow where
  mnemonic : String
  pattern : Byte
  mask : Byte
  build : BitVec 4 → Instr

/-- "A byte `E` spells the operation of a row iff `(E and mask) = match`" (R62). -/
def OpRow.spells (r : OpRow) (b : Byte) : Bool := b &&& r.mask == r.pattern

/-- No byte spells both rows: they differ in a bit that both fix. -/
def OpRow.disjoint (r q : OpRow) : Bool := (r.pattern ^^^ q.pattern) &&& r.mask &&& q.mask != 0

/-- The operation map (R62), row by row. -/
def opTable : List OpRow := [
  { mnemonic := "NOP",     pattern := 0x00, mask := 0xFF, build := fun _ => .nop },
  { mnemonic := "START",   pattern := 0x10, mask := 0xFF, build := fun _ => .start },
  { mnemonic := "STOP",    pattern := 0x20, mask := 0xFF, build := fun _ => .stop },
  { mnemonic := "RD",      pattern := 0x30, mask := 0xF0, build := fun idx => .rd idx },
  { mnemonic := "TICK",    pattern := 0x80, mask := 0xFF, build := fun _ => .tick },
  { mnemonic := "SERVICE", pattern := 0x90, mask := 0xFF, build := fun _ => .service },
  { mnemonic := "RESET",   pattern := 0xF0, mask := 0xFF, build := fun _ => .reset }]

/-- `decode`: total on every byte; `none` is the result `reserved` (R64, R65). -/
def decode (b : Byte) : Option Instr :=
  (opTable.find? (·.spells b)).map (·.build (idxOf b))

/-- The operation code of each operation (R62). -/
def opCode : Instr → BitVec 4
  | .nop => 0x0
  | .start => 0x1
  | .stop => 0x2
  | .rd _ => 0x3
  | .tick => 0x8
  | .service => 0x9
  | .reset => 0xF

/-- The operand field of each operation: the index of `RD`, 0 for every other (R60). -/
def idxField : Instr → BitVec 4
  | .rd idx => idx
  | .nop | .start | .stop | .tick | .service | .reset => 0

/-- `encode`: the one byte of an operation, `OP` above `IDX` (R60, R65). -/
def encode (i : Instr) : Byte := opCode i ++ idxField i

/-- The operation the decoder reads from an event whose bits are `w`, numbered as spec/opcode_table.json numbers them.
Every event is one byte (R60), so bits above the byte must be 0 (log entry 14). -/
def decodeTableWord (nbits w : Nat) : Option Instr :=
  if w % 2 ^ nbits < 2 ^ 8 then decode (BitVec.ofNat 8 (w % 2 ^ nbits)) else none

end Sys2Proof
end

