-- ==== Sys2Proof/Config.lean ====
section
/-! DEFINITION. What an implementation fixes: the hardware parameters (R4), the raw build-time record with its
metadata (R5), the channels, and the two free values (a configuration, the frames). -/

namespace Sys2Proof

/-- `DECIM`: the decimation factor, 1, 2 or 4 and nothing else (R4, R6). -/
inductive Decim where
  | one
  | two
  | four
deriving DecidableEq, Repr, Inhabited

/-- `DECIM` as the number 1, 2 or 4. -/
def Decim.toNat : Decim → Nat
  | .one => 1
  | .two => 2
  | .four => 4

/-- `NCH`: the number of output channels, 1 or 2 (R4, R6). -/
inductive ChannelCount where
  | one
  | two
deriving DecidableEq, Repr, Inhabited

/-- `NCH` as the number 1 or 2. -/
def ChannelCount.toNat : ChannelCount → Nat
  | .one => 1
  | .two => 2

/-- A channel (lane) number `ch`: 0 or 1 (R24, R123). -/
inductive Channel where
  | ch0
  | ch1
deriving DecidableEq, Repr

/-- The channel as a number. -/
def Channel.toNat : Channel → Nat
  | .ch0 => 0
  | .ch1 => 1

/-- The hardware parameters, with their legal values as types: a value of this type satisfies `ConfigWF`
by construction (R4, R6). They are not registers: no step changes one (R20, R206). -/
structure Config where
  DECIM : Decim
  NCH : ChannelCount
  HAS_OUT : Bool
  BIAS : Word
  MULT : Word
  SHIFT : BitVec 5
  TOP : Word
deriving DecidableEq, Repr, Inhabited

/-- The lanes `0 .. NCH-1`, in the order the boundary action takes them (R120, R123). -/
def Config.channels (cfg : Config) : List Channel :=
  match cfg.NCH with
  | .one => [.ch0]
  | .two => [.ch0, .ch1]

/-- One output frame: a sample per channel. With `NCH = 1` only `ch0` is part of the frame: no rule reads `ch1`
(R4, R30, R100). -/
structure Frame where
  ch0 : Sample
  ch1 : Sample
deriving DecidableEq, Repr, Inhabited

/-- The raw build-time record: the parameters of R4 as plain numbers and the build-check metadata of R5. A value of
this type may be ill formed; `BuildConfig.wf` (R6) and the checks of R148 to R154 say which are accepted. -/
structure BuildConfig where
  DECIM : Nat
  NCH : Nat
  HAS_OUT : Nat
  BIAS : Nat
  MULT : Nat
  SHIFT : Nat
  TOP : Nat
  RANGE : Nat
  TRUE_NUM : Nat
  TRUE_DEN : Nat
  TICK_RATE : Nat
  AUDIO_RATE : Nat
  CLOCK_HZ : Nat
  PRESCALER : Nat
  SLOPE : Nat
deriving DecidableEq, Repr

/-- FREE VALUE (log entry 2). The configuration of the instance that `State.reset` describes: the spec leaves every
parameter to the deployment (R4, 93 U1, U2, U6, U9, U13). It has no body, so nothing can be proved of its fields. -/
opaque Config.built : Config

/-- FREE VALUE (log entry 3). `FRAMES[k]` beyond the frames that were given: any value, every boundary
(R30, R67, 93 U5). It has no body, so a statement about it holds for every frame stream. -/
opaque Config.freeFrame : Nat → Frame

end Sys2Proof
end

