-- ==== Sys2Proof/Machine/State.lean ====
section
/-! DEFINITION. The state of the block (R20), its environment (R30), the output record of a step (R9), the model's own
fields, reset (R33), and the reasons a run stops (R185). -/

namespace Sys2Proof.Machine

/-- The block's own state `S`, and nothing else (R20). With `NCH = 1` there is no `CMP[1]`: its place in the record is
then no register, and no operation reads or writes it (R24, log entry 9). -/
structure Block where
  /-- The enable: interrupt enabled and pin drive enabled (R21). -/
  EN : Bool
  /-- The interrupt-pending flag (R22). -/
  IF : Bool
  /-- The tick counter: serviced ticks since the last boundary (R23). -/
  TICK_CNT : BitVec 2
  /-- `CMP[0]`, comparator register of channel 0 (R24). -/
  CMP0 : Word
  /-- `CMP[1]`, comparator register of channel 1, exists only when `NCH = 2` (R24). -/
  CMP1 : Word
deriving DecidableEq, Repr

/-- The environment `ENV` (R30): the frames that were given, from index 0, and the number of frames pulled so far.
`FRAMES[k]` beyond the given ones is `Config.freeFrame k` (R67, log entry 3). -/
structure Env where
  FRAMES : List Frame
  PULLS : Nat
deriving DecidableEq, Repr

/-- The output record of one step (R9). -/
structure Output where
  /-- `Resp(v)`: only `RD` produces one. -/
  rsp : Option Word
  /-- The `Hook(ch, v)` events, in order (R124). -/
  hooks : List (Channel × Word)
  /-- The comparator writes, in order (R122). -/
  commits : List (Channel × Word)
  /-- Whether the step pulled a frame, that is, was a boundary (R26). -/
  pulled : Bool
deriving DecidableEq, Repr

/-- "outputs: all empty" (R80, R140). -/
def Output.empty : Output := { rsp := none, hooks := [], commits := [], pulled := false }

/-- Everything one step depends on and everything it produces. `cfg` and `events` are the model's fields: the
configuration of R4, which no step changes (log entry 1), and the events still to come (R12, log entry 5). -/
structure State where
  cfg : Config
  block : Block
  env : Env
  out : Output
  events : List Byte
deriving DecidableEq, Repr

/-- The block after `RESET` (R33). -/
def Block.reset : Block := { EN := false, IF := false, TICK_CNT := 0, CMP0 := 0, CMP1 := 0 }

/-- The environment at the start of a run: nothing pulled (R30, R33). -/
def Env.initial : Env := { FRAMES := [], PULLS := 0 }

/-- The machine of a configuration right after reset (R33), with no event and no frame given yet. -/
def State.powerOn (cfg : Config) : State :=
  { cfg := cfg, block := Block.reset, env := Env.initial, out := Output.empty, events := [] }

/-- The machine right after reset (R33). Its configuration is the free constant `Config.built` (log entry 2). -/
def State.reset : State := State.powerOn Config.built

/-- There is no fault: the block raises no run-time exception and no step of it can fail (R9, R170, R173). -/
inductive Fault where
deriving DecidableEq, Repr

/-- Why a run has no next step. None of these is a fault of the block (R185). -/
inductive Refusal where
  /-- Raised by an arm of `exec` whose operation has no meaning yet (none is left). Safe. -/
  | notModelled (mnemonic : String)
  /-- Raised by `step` and by the cmd port on a byte that spells no operation there: outcome "refused" of R9, R64,
  R66. Safe: the hardware ignores such a byte, and the model gives the run no meaning. -/
  | reservedByte (b : Byte)
  /-- Raised by `SERVICE` when its guard `EN = 1 and IF = 1` is false: outcome "no step" of R9, R81. Safe: the block
  never takes that step. -/
  | noStep
  /-- Raised by `step` when the event list is exhausted: the run is over (R12, R209). Safe. -/
  | runOver
deriving DecidableEq, Repr

end Sys2Proof.Machine
end

