-- ==== Sys2Proof/Machine/Flags.lean ====
section
/-! DEFINITION. The two flags `EN` and `IF` (R21, R22, R26): their updates, the guard that reads them, and the STATUS
word that shows them (R27). There are no arithmetic flags (R26). -/

namespace Sys2Proof.Machine

/-- `EN <- v` (R21). -/
def Block.setEN (b : Block) (v : Bool) : Block := { b with EN := v }

/-- `IF <- v` (R22). -/
def Block.setIF (b : Block) (v : Bool) : Block := { b with IF := v }

/-- The guard of `SERVICE`: `EN = 1 and IF = 1` (R22, R81). -/
def Block.serviceEnabled (b : Block) : Bool := b.EN && b.IF

/-- `STATUS = {0b000000000000, TICK_CNT[1:0], IF, EN}` (R27). -/
def Block.status (b : Block) : Word :=
  (0 : BitVec 12) ++ b.TICK_CNT ++ BitVec.ofBool b.IF ++ BitVec.ofBool b.EN

/-- The document's "alternation flag": not a field, but `TICK_CNT[0]` when `DECIM = 2` (R23). -/
def Block.alternation (b : Block) : Bool := b.TICK_CNT.getLsbD 0

end Sys2Proof.Machine
end

