-- ==== Sys2Proof/Machine/Operands.lean ====
section
/-! DEFINITION. What an operation reads: the comparator registers by lane (R24), a frame by lane (R123), and the host's
read view `RegRead` (R27, R28, R145). -/

namespace Sys2Proof.Machine

/-- `CMP[ch]` (R24). -/
def Block.CMP (b : Block) : Channel → Word
  | .ch0 => b.CMP0
  | .ch1 => b.CMP1

/-- `f[ch]`: the sample of a lane (R120, R123). -/
def laneSample (f : Frame) : Channel → Sample
  | .ch0 => f.ch0
  | .ch1 => f.ch1

/-- The record `S = {EN, IF, TICK_CNT, CMP[0..NCH-1]}` of R20, with the comparators as the list of the lanes that
exist. -/
def State.S (s : State) : Bool × Bool × BitVec 2 × List Word :=
  (s.block.EN, s.block.IF, s.block.TICK_CNT, s.cfg.channels.map s.block.CMP)

/-- `DECIM[2:0]`, the number 1, 2 or 4 (R28). -/
def decimBits (d : Decim) : BitVec 3 := BitVec.ofNat 3 d.toNat

/-- `NCHF[1:0]`, the number 1 or 2 (R28). -/
def nchBits (n : ChannelCount) : BitVec 2 := BitVec.ofNat 2 n.toNat

/-- `CFG = {0b000, SHIFT[4:0], 0b00, NCHF[1:0], HAS_OUT, DECIM[2:0]}` (R28). -/
def cfgWord (cfg : Config) : Word :=
  (0 : BitVec 3) ++ cfg.SHIFT ++ (0 : BitVec 2) ++ nchBits cfg.NCH ++ BitVec.ofBool cfg.HAS_OUT
    ++ decimBits cfg.DECIM

/-- Index 2 of the read view: `CMP[1]` if `NCH = 2`, else 0 (R28, R145). -/
def readCmp1 (cfg : Config) (b : Block) : Word :=
  match cfg.NCH with
  | .one => 0
  | .two => b.CMP .ch1

/-- `RegRead(idx)`: a pure function of the state and the configuration (R145). -/
def regRead (cfg : Config) (b : Block) (idx : BitVec 4) : Word :=
  match idx.toNat with
  | 0 => b.status
  | 1 => b.CMP .ch0
  | 2 => readCmp1 cfg b
  | 3 => cfgWord cfg
  | 4 => cfg.BIAS
  | 5 => cfg.MULT
  | 6 => cfg.TOP
  | _ => 0

end Sys2Proof.Machine
end

