-- ==== Sys2Proof/Machine/Ops.lean ====
section
/-! DEFINITION. The shared operations: register writes (R24, R122), `PullFrame` (R8, R30), the output record (R9), and
raising and taking the tick interrupt, the block's only exception-like event (R174 to R179). -/

namespace Sys2Proof.Machine

/-- `CMP[ch] <- v`: replaces all 16 bits; the old value is not read (R122). -/
def Block.setCMP (b : Block) (ch : Channel) (v : Word) : Block :=
  match ch with
  | .ch0 => { b with CMP0 := v }
  | .ch1 => { b with CMP1 := v }

/-- `TICK_CNT <- n` (R23). -/
def Block.setTickCnt (b : Block) (n : BitVec 2) : Block := { b with TICK_CNT := n }

/-- `for ch = 0 to NCH-1 do CMP[ch] <- 0` (R140, R142). -/
def clearCMP (cfg : Config) (b : Block) : Block :=
  cfg.channels.foldl (fun b ch => b.setCMP ch 0) b

/-- `FRAMES[k]` (R30): the given frame, or the free value beyond the given ones (R67, log entry 3). -/
def Env.frameAt (e : Env) (k : Nat) : Frame := e.FRAMES[k]?.getD (Config.freeFrame k)

/-- The frame the next `PullFrame()` returns. -/
def Env.nextFrame (e : Env) : Frame := e.frameAt e.PULLS

/-- `PullFrame()` (R8, R30): returns `FRAMES[PULLS]` and performs `PULLS <- PULLS + 1`. -/
def pullFrame (e : Env) : Frame × Env := (e.nextFrame, { e with PULLS := e.PULLS + 1 })

/-- The output record of an `RD` (R8, R144). -/
def Output.respond (v : Word) : Output := { Output.empty with rsp := some v }

/-- `commits <- commits ++ [(ch, v)]` (R120). -/
def Output.addCommit (o : Output) (ch : Channel) (v : Word) : Output :=
  { o with commits := o.commits ++ [(ch, v)] }

/-- `Hook(ch, v)` (R8, R124). -/
def Output.addHook (o : Output) (ch : Channel) (v : Word) : Output :=
  { o with hooks := o.hooks ++ [(ch, v)] }

/-- The state after a step that writes the block and leaves the environment alone. -/
def State.after (s : State) (b : Block) (o : Output) : State := { s with block := b, out := o }

/-- The timer overflow reaches the block: the tick becomes pending if the source is enabled, else it is discarded
(R80, R175, R176). -/
def raiseTick (b : Block) : Block := if b.EN then b.setIF true else b

/-- Taking the interrupt (R178): possible only when a tick is pending and enabled (R81); it clears the pending flag,
first and unconditionally (R82), and saves nothing: there is no return address, status word, mode or vector (R178).
The return is the end of the step and changes nothing (R179). -/
def takeTick (b : Block) : Option Block := if b.serviceEnabled then some (b.setIF false) else none

end Sys2Proof.Machine
end

