-- ==== Sys2Proof/Machine/Scaler.lean ====
section
/-! DEFINITION. The integer sample scaler `ScaleSat` (R100 to R106), on exact integers (R7, R110). -/

namespace Sys2Proof.Machine

/-- Step 1: `b = s + BIAS` (R101). -/
def biased (cfg : Config) (s : Sample) : Int := s.toInt + cfg.BIAS.toNat

/-- Low saturation: `b0 = max(b, 0)` (R102). -/
def lowClamp (b : Int) : Nat := (max b 0).toNat

/-- Steps 2a and 2b: `q = (b0 * MULT) >> SHIFT = floor(b0 * MULT / 2^SHIFT)` (R103, R104). -/
def rescale (cfg : Config) (b0 : Nat) : Nat := (b0 * cfg.MULT.toNat) / 2 ^ cfg.SHIFT.toNat

/-- High saturation: `v = min(q, TOP)`, an unsigned 16-bit value (R105). -/
def highClamp (cfg : Config) (q : Nat) : Word := BitVec.ofNat 16 (min q cfg.TOP.toNat)

/-- `ScaleSat(s)` (R106). -/
def scaleSat (cfg : Config) (s : Sample) : Word :=
  highClamp cfg (rescale cfg (lowClamp (biased cfg s)))

end Sys2Proof.Machine
end

