-- ==== Sys2Proof/Machine/Writer.lean ====
section
/-! DEFINITION. The PWM comparator writer: the boundary action (R120 to R124). -/

namespace Sys2Proof.Machine

/-- One lane of the boundary action: scale its sample, then commit it or hand it to the hook
(R120, R122 to R124). -/
def writeLane (cfg : Config) (f : Frame) (acc : Block × Output) (ch : Channel) : Block × Output :=
  let v := scaleSat cfg (laneSample f ch)
  if cfg.HAS_OUT then (acc.1.setCMP ch v, acc.2.addCommit ch v)
  else (acc.1, acc.2.addHook ch v)

/-- All lanes, lane 0 first (R123); the step's record says `pulled = 1`. -/
def writeLanes (cfg : Config) (f : Frame) (b : Block) : Block × Output :=
  cfg.channels.foldl (writeLane cfg f) (b, { Output.empty with pulled := true })

/-- `BoundaryAction()` on the block `b` (R120): one pull, which supplies every lane (R121), then the lanes. -/
def boundaryAction (s : State) (b : Block) : State :=
  let pull := pullFrame s.env
  let written := writeLanes s.cfg pull.1 b
  { s.after written.1 written.2 with env := pull.2 }

end Sys2Proof.Machine
end

