-- ==== Sys2Proof/Machine/Divider.lean ====
section
/-! DEFINITION. The rate divider: `TICK` and `SERVICE` (R80 to R86). -/

namespace Sys2Proof.Machine

/-- `n = TICK_CNT + 1`, without wrap: 1..4 (R81, R83). -/
def nextCount (b : Block) : Nat := b.TICK_CNT.toNat + 1

/-- The boundary test `n >= DECIM` (R83). -/
def isBoundary (cfg : Config) (b : Block) : Bool := cfg.DECIM.toNat ≤ nextCount b

/-- The handler's body after the flag is cleared (R81): count, and on a boundary run the boundary action. -/
def countTick (s : State) (b : Block) : State :=
  if isBoundary s.cfg b then boundaryAction s (b.setTickCnt 0)
  else s.after (b.setTickCnt (BitVec.ofNat 2 (nextCount b))) Output.empty

/-- `TICK` (R80). -/
def execTick (s : State) : Host.Outcome State Fault Refusal :=
  .next (s.after (raiseTick s.block) Output.empty)

/-- `SERVICE` (R81): no step when the guard is false (R185). -/
def execService (s : State) : Host.Outcome State Fault Refusal :=
  match takeTick s.block with
  | none => .refused .noStep
  | some b => .next (countTick s b)

end Sys2Proof.Machine
end

