-- ==== Sys2Proof/Machine/Lifecycle.lean ====
section
/-! DEFINITION. Lifecycle and host operations: `RESET`, `NOP`, `START`, `STOP`, `RD` (R140 to R145). -/

namespace Sys2Proof.Machine

/-- `EN <- en ; IF <- 0 ; TICK_CNT <- 0 ; for ch do CMP[ch] <- 0`: what `RESET` and `START` share (R140, R142). -/
def initialise (cfg : Config) (en : Bool) (b : Block) : Block :=
  (((clearCMP cfg b).setEN en).setIF false).setTickCnt 0

/-- `RESET` (R140). -/
def execReset (s : State) : Host.Outcome State Fault Refusal :=
  .next (s.after (initialise s.cfg false s.block) Output.empty)

/-- `NOP` (R141). -/
def execNop (s : State) : Host.Outcome State Fault Refusal :=
  .next (s.after s.block Output.empty)

/-- `START` (R142). -/
def execStart (s : State) : Host.Outcome State Fault Refusal :=
  .next (s.after (initialise s.cfg true s.block) Output.empty)

/-- `STOP` (R143). -/
def execStop (s : State) : Host.Outcome State Fault Refusal :=
  .next (s.after ((s.block.setEN false).setIF false) Output.empty)

/-- `RD idx` (R144): `Resp(RegRead(idx))`, and nothing changes. -/
def execRd (idx : BitVec 4) (s : State) : Host.Outcome State Fault Refusal :=
  .next (s.after s.block (Output.respond (regRead s.cfg s.block idx)))

end Sys2Proof.Machine
end

