-- ==== Sys2Proof/Machine/Dispatch.lean ====
section
/-! DEFINITION. One arm per operation (R62). -/

namespace Sys2Proof.Machine

def exec (i : Instr) (s : State) : Host.Outcome State Fault Refusal :=
  match i with
  | .nop => Sys2Proof.Machine.execNop s
  | .start => Sys2Proof.Machine.execStart s
  | .stop => Sys2Proof.Machine.execStop s
  | .rd idx => Sys2Proof.Machine.execRd idx s
  | .tick => Sys2Proof.Machine.execTick s
  | .service => Sys2Proof.Machine.execService s
  | .reset => Sys2Proof.Machine.execReset s

end Sys2Proof.Machine
end

