-- ==== Sys2Proof/Machine/Fetch.lean ====
section
/-! DEFINITION. Taking the next event of the list a run is applied to (R12, R209). The block has no program counter and
fetches nothing (R25, R49): the position in the event list is the list itself (log entry 5). -/

namespace Sys2Proof.Machine

/-- The next event byte and the state with the rest of the list, or `none` when the list is exhausted. -/
def nextEvent (s : State) : Option (Byte × State) :=
  match s.events with
  | [] => none
  | b :: rest => some (b, { s with events := rest })

/-- `s` with the byte `b` as its next event; the events that were next follow it. -/
def pushEvent (s : State) (b : Byte) : State := { s with events := b :: s.events }

/-- One event byte at a state: its operation's step, or the refusal of a reserved byte (R9, R64). -/
def runByte (b : Byte) (s : State) : Host.Outcome State Fault Refusal :=
  match decode b with
  | none => .refused (.reservedByte b)
  | some i => exec i s

end Sys2Proof.Machine
end

