-- ==== Sys2Proof/Machine/Step.lean ====
section
/-! DEFINITION. One step of a run: the next event of the list (R9, R209), and the host's way to place an event. -/

namespace Sys2Proof.Machine

/-- One step: the next event is taken from the list and its operation runs at the state that is left; with the list
exhausted the run is over (R12, R209). -/
def step (s : State) : Host.Outcome State Fault Refusal :=
  match nextEvent s with
  | none => .refused .runOver
  | some (b, s') => runByte b s'

/-- `s` with the event whose bits are `w` as its next event (log entry 5). Every event is one byte (R60). -/
def State.withFetchWord (s : State) (nbits w : Nat) : State :=
  pushEvent s (BitVec.ofNat 8 (w % 2 ^ nbits))

end Sys2Proof.Machine
end

