-- ==== Sys2Proof/Machine/Runs.lean ====
section
/-! DEFINITION. Event lists and runs (R45, R209), the pseudo-instructions (R68), lost ticks (R86, R172) and the hazard
`PromptService` (R203). -/

namespace Sys2Proof.Machine

/-- Go on after a step that gave a next state; stop where it stopped. -/
def andThen {σ τ φ ρ : Type} (o : Host.Outcome σ φ ρ) (f : σ → Host.Outcome τ φ ρ) : Host.Outcome τ φ ρ :=
  match o with
  | .next s => f s
  | .fault r => .fault r
  | .refused r => .refused r

/-- A run: the operations one after the other, each at the state the one before left (R45), with the output record of
every step in order (R9, R12). -/
def runEvents : List Instr → State → Host.Outcome (State × List Output) Fault Refusal
  | [], s => .next (s, [])
  | i :: is, s =>
    andThen (exec i s) fun t =>
      andThen (runEvents is t) fun r => .next (r.1, t.out :: r.2)

/-- The pseudo-instructions (R68). -/
inductive Pseudo where
  | ts
  | ticks (n : Nat)
  | restart
  | boot
deriving DecidableEq, Repr

/-- `TICKS n`: `TS` repeated `n` times (R68). -/
def tickPairs : Nat → List Instr
  | 0 => []
  | n + 1 => .tick :: .service :: tickPairs n

/-- The expansion of each pseudo-instruction (R68). -/
def Pseudo.expand : Pseudo → List Instr
  | .ts => [.tick, .service]
  | .ticks n => tickPairs n
  | .restart => [.stop, .start]
  | .boot => [.reset, .start]

/-- The bytes of an event list (R65, R68). -/
def bytesOf (is : List Instr) : List Byte := is.map encode

/-- This event at this state is a tick that is merged into one already pending (R86). -/
def isLostTick (i : Instr) (s : State) : Bool := i == .tick && s.block.EN && s.block.IF

/-- What a model counts to speak of overruns: the ticks of a run taken with `EN = 1 and IF = 1` (R172). -/
def lostTicks : List Instr → State → Nat
  | [], _ => 0
  | i :: is, s =>
    (if isLostTick i s then 1 else 0) +
      match exec i s with
      | .next t => lostTicks is t
      | .fault _ => 0
      | .refused _ => 0

/-- Whether a service is owed after this event: a tick taken with `EN = 1` owes one, a service pays it (R203). -/
def owedAfter (owed : Bool) (i : Instr) (s : State) : Bool :=
  match i with
  | .tick => owed || s.block.EN
  | .service => false
  | .nop | .start | .stop | .rd _ | .reset => owed

/-- `PromptService` along a run, with `owed` saying whether a tick taken with `EN = 1` has had no `SERVICE` yet:
"between two `TICK` events taken with `EN = 1` there must be a `SERVICE`" (R203, log entry 13). -/
def promptFrom (owed : Bool) : List Instr → State → Bool
  | [], _ => true
  | i :: is, s =>
    !(i == .tick && s.block.EN && owed) &&
      match exec i s with
      | .next t => promptFrom (owedAfter owed i s) is t
      | .fault _ => true
      | .refused _ => true

/-- The premise `PromptService` on an event list applied to `s` (R203). -/
def promptService (is : List Instr) (s : State) : Bool := promptFrom s.block.IF is s

/-- The run is over: its event list is exhausted (R12, R209). -/
def runIsOver (s : State) : Bool := s.events.isEmpty

/-- The run is quiescent: it is over "and in addition `IF = 0`", nothing pending (R12, R209). -/
def quiescent (s : State) : Bool := runIsOver s && !s.block.IF

/-- The run is over with "an enabled `SERVICE` outstanding": it ended with `IF = 1 and EN = 1` (R209). -/
def serviceOutstanding (s : State) : Bool := runIsOver s && s.block.serviceEnabled

end Sys2Proof.Machine
end

