-- ==== Sys2Proof/Machine/Ports.lean ====
section
/-! DEFINITION. The physical side: exported signals (R34), the port mapping (R66) and same-cycle events (R177). -/

namespace Sys2Proof.Machine

/-- The continuous outputs of the block: functions of the state, not state (R34). `cmpVal` has one entry per lane. -/
structure Exports where
  irqEn : Bool
  outEn : Bool
  irqPend : Bool
  cmpVal : List Word
deriving DecidableEq, Repr

/-- `irq_en = EN; out_en = EN; irq_pend = IF; cmp_val[ch] = CMP[ch]` (R34). -/
def State.exports (s : State) : Exports :=
  { irqEn := s.block.EN, outEn := s.block.EN, irqPend := s.block.IF,
    cmpVal := s.cfg.channels.map s.block.CMP }

/-- The pulses a step drives on the output ports (R66): `rsp` is `some` exactly when `rsp_valid` is 1, `fReq` is
`f_req`, `cmpWe` has one entry per lane, `hooks` are the `hook_valid` events in order. -/
structure OutPulses where
  rsp : Option Word
  fReq : Bool
  cmpWe : List Bool
  hooks : List (Channel × Word)
deriving DecidableEq, Repr

/-- The output pulses of a step, from its record (R66). A commit pulses `cmp_we[ch]` also when the value is the one
already held (R122). -/
def outPulses (cfg : Config) (o : Output) : OutPulses :=
  { rsp := o.rsp, fReq := o.pulled,
    cmpWe := cfg.channels.map fun ch => o.commits.any fun c => c.1 == ch,
    hooks := o.hooks }

/-- The cmd port: only `NOP`, `START`, `STOP` and `RD` are commands; a byte that is `TICK`, `SERVICE`, `RESET` or
reserved is treated as reserved there (R66). -/
def decodeCmd (b : Byte) : Option Instr := (decode b).filter fun i => i.agent == .host

/-- The pulses that fall in one clock cycle (R66, R177). `SERVICE` has no pin: `service` says whether the block's own
step falls in this cycle (log entry 10). -/
structure InPulses where
  rst : Bool
  cmd : Option Byte
  tick : Bool
  service : Bool
deriving DecidableEq, Repr

/-- The operation of the cmd port in this cycle, or the refusal of a byte that is no command. -/
def cmdEvents : Option Byte → Except Refusal (List Instr)
  | none => .ok []
  | some b =>
    match decodeCmd b with
    | none => .error (.reservedByte b)
    | some i => .ok [i]

/-- The events of a cycle but `SERVICE`, in the fixed order: `RESET`, the host command, `TICK` (R177). -/
def pulseEvents (p : InPulses) (cmd : List Instr) : List Instr :=
  (if p.rst then [.reset] else []) ++ cmd ++ (if p.tick then [.tick] else [])

/-- `SERVICE` last, if it falls in this cycle and "its guard holds after the others" (R177). -/
def serviceEvents (p : InPulses) (s : State) : List Instr :=
  if p.service && s.block.serviceEnabled then [.service] else []

/-- One clock cycle: the same-cycle events as separate steps in the fixed order of R177, with the record of each. -/
def cycle (p : InPulses) (s : State) : Host.Outcome (State × List Output) Fault Refusal :=
  match cmdEvents p.cmd with
  | .error r => .refused r
  | .ok cmd =>
    andThen (runEvents (pulseEvents p cmd) s) fun r =>
      andThen (runEvents (serviceEvents p r.1) r.1) fun q => .next (q.1, r.2 ++ q.2)

end Sys2Proof.Machine
end

