-- ==== Sys2Proof/WellFormed.lean ====
section
/-! DEFINITION. What is well formed: an event byte's two fields (R60, R64) and a build-time record (R6). An `Instr` has
no ill-formed value: its one operand is a 4-bit number and every 4-bit number is a legal index (R63). -/

namespace Sys2Proof

/-- The operation codes of R62. -/
def assignedOps : List (BitVec 4) := [0x0, 0x1, 0x2, 0x3, 0x8, 0x9, 0xF]

/-- The prose of R60 and R64: the operation code is assigned, and `IDX` is 0 for every operation but `RD`. -/
def EventFields.wellFormed (e : EventFields) : Bool :=
  assignedOps.contains e.OP && (e.OP == 0x3 || e.IDX == 0)

/-- `ConfigWF` (R6). -/
def BuildConfig.wf (b : BuildConfig) : Bool :=
  (b.DECIM == 1 || b.DECIM == 2 || b.DECIM == 4)
    && (b.NCH == 1 || b.NCH == 2)
    && (b.HAS_OUT == 0 || b.HAS_OUT == 1)
    && b.BIAS < 2 ^ 16 && b.MULT < 2 ^ 16 && b.TOP < 2 ^ 16
    && b.SHIFT < 32

end Sys2Proof
end

