-- ==== Sys2Proof/Machine/BuildChecks.lean ====
section
/-! DEFINITION. The build-time configuration checks (R148 to R154) and what they decide: which raw records become a
machine (R6), which may be deployed, and with which diagnostic the others are rejected (R171). None of them is
evaluated by the running block. -/

namespace Sys2Proof.Machine

/-- The rescaled value of a biased value before the high clamp: `q(b) = (b * MULT) >> SHIFT` (R150). -/
def rescaledBiased (c : BuildConfig) (b : Nat) : Nat := (b * c.MULT) / 2 ^ c.SHIFT

/-- "bit depth", informational: `ceil(log2(RANGE))` (R5, D32). No rule reads it. -/
def bitDepth (c : BuildConfig) : Nat := Nat.clog 2 c.RANGE

/-- `CK_RATE` (R148). -/
def ckRate (c : BuildConfig) : Bool :=
  (c.DECIM == 1 || c.DECIM == 2 || c.DECIM == 4)
    && c.TICK_RATE == c.AUDIO_RATE * c.DECIM && 1 ≤ c.AUDIO_RATE

/-- `CK_BIAS` (R149). -/
def ckBias (c : BuildConfig) : Bool :=
  c.RANGE % 2 == 0 && 2 ≤ c.RANGE && c.BIAS * 2 == c.RANGE
    && (c.RANGE : Int) - 1 - c.BIAS ≤ 32767 && c.BIAS ≤ 32768

/-- `| q(b) * TRUE_DEN - b * TRUE_NUM | ≤ TRUE_DEN`, one unit of error at most (R150). -/
def accurateAt (c : BuildConfig) (b : Nat) : Bool :=
  ((rescaledBiased c b * c.TRUE_DEN : Int) - b * c.TRUE_NUM).natAbs ≤ c.TRUE_DEN

/-- `CK_ACC`: accurate at every biased value `0 .. RANGE-1` (R150); the true denominator is at least 1 (R5, log
entry 11). -/
def ckAcc (c : BuildConfig) : Bool := 1 ≤ c.TRUE_DEN && (List.range c.RANGE).all (accurateAt c)

/-- `CK_TOP` (R151). -/
def ckTop (c : BuildConfig) : Bool := rescaledBiased c (c.RANGE - 1) ≤ c.TOP

/-- `CK_PERIOD` (R152). -/
def ckPeriod (c : BuildConfig) : Bool :=
  c.CLOCK_HZ == c.PRESCALER * c.TICK_RATE * c.TOP * c.SLOPE
    && (c.SLOPE == 1 || c.SLOPE == 2) && 1 ≤ c.PRESCALER && 1 ≤ c.TOP

/-- `CK_PIN`: the platform supports the chosen pin and timer, or there is no output stage (R153, log entry 11).
`PinSupported` is the platform's and stays an argument (R153, D29). -/
def ckPin (pinSupported : BuildConfig → Bool) (c : BuildConfig) : Bool :=
  c.HAS_OUT == 0 || pinSupported c

/-- The checks by name; the name of a failed one is the diagnostic (R171). -/
inductive Check where
  | configWF
  | ckRate
  | ckBias
  | ckAcc
  | ckTop
  | ckPeriod
  | ckPin
deriving DecidableEq, Repr

/-- All conjuncts of `ConfigChecked`, in the order of R154. -/
def Check.all : List Check := [.configWF, .ckRate, .ckBias, .ckAcc, .ckTop, .ckPeriod, .ckPin]

/-- Whether a configuration passes a check. -/
def Check.passes (pinSupported : BuildConfig → Bool) (c : BuildConfig) : Check → Bool
  | .configWF => c.wf
  | .ckRate => Machine.ckRate c
  | .ckBias => Machine.ckBias c
  | .ckAcc => Machine.ckAcc c
  | .ckTop => Machine.ckTop c
  | .ckPeriod => Machine.ckPeriod c
  | .ckPin => Machine.ckPin pinSupported c

/-- The diagnostics of a configuration: the checks it fails (R171). R171 names "the failed check", one; DESIGN CHOICE
(log entry 19): of several failed checks all are named, in the order of `Check.all`, and each check is evaluated whether
or not another one fails, `ConfigWF` included. -/
def failedChecks (pinSupported : BuildConfig → Bool) (c : BuildConfig) : List Check :=
  Check.all.filter fun k => !k.passes pinSupported c

/-- `ConfigChecked` (R154). -/
def configChecked (pinSupported : BuildConfig → Bool) (c : BuildConfig) : Bool :=
  c.wf && ckRate c && ckBias c && ckAcc c && ckTop c && ckPeriod c && ckPin pinSupported c

/-- The legal decimation factors (R6). -/
def decimOf : Nat → Option Decim
  | 1 => some .one
  | 2 => some .two
  | 4 => some .four
  | _ => none

/-- The legal channel counts (R6). -/
def channelCountOf : Nat → Option ChannelCount
  | 1 => some .one
  | 2 => some .two
  | _ => none

/-- The hardware parameters of a record that satisfies `ConfigWF`; any other record has none, so no machine exists for
it (R6, V5). -/
def toConfig (c : BuildConfig) : Option Config :=
  match decimOf c.DECIM, channelCountOf c.NCH with
  | some d, some n =>
    if c.wf then
      some { DECIM := d, NCH := n, HAS_OUT := c.HAS_OUT == 1, BIAS := BitVec.ofNat 16 c.BIAS,
             MULT := BitVec.ofNat 16 c.MULT, SHIFT := BitVec.ofNat 5 c.SHIFT, TOP := BitVec.ofNat 16 c.TOP }
    else none
  | _, _ => none

/-- Building the hardware of a deployed configuration: rejected with all its diagnostics (log entry 19) "before any hardware state is
touched", or the machine right after reset (R154, R171, R201). -/
def deploy (pinSupported : BuildConfig → Bool) (c : BuildConfig) : Except (List Check) State :=
  match failedChecks pinSupported c, toConfig c with
  | [], some cfg => .ok (State.powerOn cfg)
  | failed, _ => .error failed

end Sys2Proof.Machine
end

