-- ==== Sys2Proof/Machine/Trace.lean ====
section
/-! DEFINITION. The trace syntax (R67) with the pseudo-instructions (R68): from the text of a trace to the machine a run
starts at. The choices the spec leaves open are log entry 12. -/

namespace Sys2Proof.Machine

/-- Cut a text at every separator. -/
def cutAt (sep : Char → Bool) : List Char → List (List Char)
  | [] => [[]]
  | c :: cs =>
    if sep c then [] :: cutAt sep cs
    else
      match cutAt sep cs with
      | [] => [[c]]
      | w :: ws => (c :: w) :: ws

/-- The words of a line, its comment left out: "`;` starts a comment" (R67). -/
def wordsOf (line : List Char) : List (List Char) :=
  (cutAt Char.isWhitespace (line.takeWhile (· != ';'))).filter fun w => !w.isEmpty

/-- The value of a digit in base 10 or 16. -/
def digitValue (base : Nat) (c : Char) : Option Nat :=
  let v :=
    if '0' ≤ c ∧ c ≤ '9' then c.toNat - '0'.toNat
    else if 'a' ≤ c ∧ c ≤ 'f' then c.toNat - 'a'.toNat + 10
    else if 'A' ≤ c ∧ c ≤ 'F' then c.toNat - 'A'.toNat + 10
    else base
  if v < base then some v else none

/-- Digits read on from a value. -/
def readDigits (base : Nat) : Nat → List Char → Option Nat
  | acc, [] => some acc
  | acc, c :: cs => (digitValue base c).bind fun d => readDigits base (acc * base + d) cs

/-- A decimal or `0x` number (R67). -/
def readNat : List Char → Option Nat
  | [] => none
  | '0' :: 'x' :: c :: cs => readDigits 16 0 (c :: cs)
  | c :: cs => readDigits 10 0 (c :: cs)

/-- A sample value, with a sign if negative. -/
def readInt : List Char → Option Int
  | '-' :: cs => (readNat cs).map fun n => -(n : Int)
  | cs => (readNat cs).map fun n => (n : Int)

/-- The names of the read indices (R67). -/
def indexNames : List (List Char × Nat) := [
  (['S', 'T', 'A', 'T', 'U', 'S'], 0), (['C', 'M', 'P', '0'], 1), (['C', 'M', 'P', '1'], 2), (['C', 'F', 'G'], 3),
  (['B', 'I', 'A', 'S'], 4), (['M', 'U', 'L', 'T'], 5), (['T', 'O', 'P'], 6)]

/-- `<idx>`: a name, or a number 0..15 (R67). -/
def readIndex (w : List Char) : Option (BitVec 4) :=
  match indexNames.lookup w with
  | some n => some (BitVec.ofNat 4 n)
  | none => (readNat w).bind fun n => if n < 16 then some (BitVec.ofNat 4 n) else none

/-- The mnemonics without an operand, pseudo-instructions and the alias `SVC` among them (R67, R68). -/
def plainMnemonics : List (List Char × List Instr) := [
  (['N', 'O', 'P'], [.nop]), (['S', 'T', 'A', 'R', 'T'], [.start]), (['S', 'T', 'O', 'P'], [.stop]),
  (['T', 'I', 'C', 'K'], [.tick]), (['S', 'E', 'R', 'V', 'I', 'C', 'E'], [.service]), (['S', 'V', 'C'], [.service]),
  (['R', 'E', 'S', 'E', 'T'], [.reset]), (['T', 'S'], Pseudo.ts.expand),
  (['R', 'E', 'S', 'T', 'A', 'R', 'T'], Pseudo.restart.expand), (['B', 'O', 'O', 'T'], Pseudo.boot.expand)]

/-- One operation or pseudo-instruction: mnemonics are case-insensitive (R67). -/
def readOp (mnemonic : List Char) (operands : List (List Char)) : Option (List Instr) :=
  match mnemonic.map Char.toUpper, operands with
  | m, [] => plainMnemonics.lookup m
  | ['R', 'D'], [w] => (readIndex w).map fun idx => [.rd idx]
  | ['T', 'I', 'C', 'K', 'S'], [w] => (readNat w).map fun n => (Pseudo.ticks n).expand
  | _, _ => none

/-- One `NAME=value` of `.config` (R67), with the names of R4 and R5. -/
def setField (c : BuildConfig) (setting : List Char) : Option BuildConfig :=
  match cutAt (· == '=') setting with
  | [name, value] =>
    (readNat value).bind fun v =>
      match name with
      | ['D', 'E', 'C', 'I', 'M'] => some { c with DECIM := v }
      | ['N', 'C', 'H'] => some { c with NCH := v }
      | ['H', 'A', 'S', '_', 'O', 'U', 'T'] => some { c with HAS_OUT := v }
      | ['B', 'I', 'A', 'S'] => some { c with BIAS := v }
      | ['M', 'U', 'L', 'T'] => some { c with MULT := v }
      | ['S', 'H', 'I', 'F', 'T'] => some { c with SHIFT := v }
      | ['T', 'O', 'P'] => some { c with TOP := v }
      | ['R', 'A', 'N', 'G', 'E'] => some { c with RANGE := v }
      | ['T', 'R', 'U', 'E', '_', 'N', 'U', 'M'] => some { c with TRUE_NUM := v }
      | ['T', 'R', 'U', 'E', '_', 'D', 'E', 'N'] => some { c with TRUE_DEN := v }
      | ['T', 'I', 'C', 'K', '_', 'R', 'A', 'T', 'E'] => some { c with TICK_RATE := v }
      | ['A', 'U', 'D', 'I', 'O', '_', 'R', 'A', 'T', 'E'] => some { c with AUDIO_RATE := v }
      | ['C', 'L', 'O', 'C', 'K', '_', 'H', 'Z'] => some { c with CLOCK_HZ := v }
      | ['P', 'R', 'E', 'S', 'C', 'A', 'L', 'E', 'R'] => some { c with PRESCALER := v }
      | ['S', 'L', 'O', 'P', 'E'] => some { c with SLOPE := v }
      | _ => none
  | _ => none

/-- The settings of a `.config` line, one after the other. -/
def setFields : List (List Char) → BuildConfig → Option BuildConfig
  | [], c => some c
  | w :: ws, c => (setField c w).bind (setFields ws)

/-- The 16-bit two's complement sample of a number in the port's range (R100). -/
def toSample (v : Int) : Option Sample :=
  if -32768 ≤ v ∧ v ≤ 32767 then some (BitVec.ofInt 16 v) else none

/-- One frame of `.frames`: `(a)` or `(a0,a1)` (R67). The absent lane of a one-channel frame is never read. -/
def readFrame (w : List Char) : Option (Nat × Frame) :=
  match w, w.getLast? with
  | '(' :: rest, some ')' =>
    match cutAt (· == ',') rest.dropLast with
    | [a] => ((readInt a).bind toSample).map fun s => (1, { ch0 := s, ch1 := 0 })
    | [a0, a1] =>
      ((readInt a0).bind toSample).bind fun s0 =>
        ((readInt a1).bind toSample).map fun s1 => (2, { ch0 := s0, ch1 := s1 })
    | _ => none
  | _, _ => none

/-- The frames of a `.frames` line. -/
def readFrames : List (List Char) → Option (List (Nat × Frame))
  | [] => some []
  | w :: ws => (readFrame w).bind fun f => (readFrames ws).map (f :: ·)

/-- A trace read so far: the configuration, the frames given (each with its number of samples), the events. -/
structure Trace where
  config : BuildConfig
  frames : List (Nat × Frame)
  events : List Instr
deriving DecidableEq, Repr

/-- One line of a trace (R67): nothing, a directive, or an operation. `.config` stands before the first event. -/
def readLine (t : Trace) (line : List Char) : Option Trace :=
  match wordsOf line with
  | [] => some t
  | ['.', 'c', 'o', 'n', 'f', 'i', 'g'] :: settings =>
    if t.events.isEmpty then (setFields settings t.config).map fun c => { t with config := c } else none
  | ['.', 'f', 'r', 'a', 'm', 'e', 's'] :: groups =>
    (readFrames groups).map fun fs => { t with frames := t.frames ++ fs }
  | m :: operands => (readOp m operands).map fun is => { t with events := t.events ++ is }

/-- The lines of a trace, one event per line (R67). -/
def readLines : List (List Char) → Trace → Option Trace
  | [], t => some t
  | l :: ls, t => (readLine t l).bind (readLines ls)

/-- The text of a trace, read on from a configuration that supplies the fields no `.config` sets. -/
def readTrace (base : BuildConfig) (text : List Char) : Option Trace :=
  readLines (cutAt (· == '\n') text) { config := base, frames := [], events := [] }

/-- The machine a trace starts at: its configuration's, with the frames it gives and its events as the list to come.
There is none if the configuration fails `ConfigWF` (R6) or a frame has not `NCH` samples (R30). -/
def Trace.load (t : Trace) : Option State :=
  (toConfig t.config).bind fun cfg =>
    if t.frames.all fun f => f.1 == cfg.NCH.toNat then
      some { State.powerOn cfg with
        env := { Env.initial with FRAMES := t.frames.map (·.2) }, events := bytesOf t.events }
    else none

end Sys2Proof.Machine
end

