-- ==== Sys2Proof/Safety.lean ====
section
/-! DEFINITION. What a safe state and a safe run are, in the terms the statements use: the invariants of R32 and the
runs that never stop (R185). -/

namespace Sys2Proof.Machine

/-- (I1) `IF = 1` implies `EN = 1` (R32). -/
abbrev PendingOnlyWhileEnabled (s : State) : Prop := s.block.IF = true → s.block.EN = true

/-- (I2) `TICK_CNT < DECIM` (R32). -/
abbrev CounterBelowDecim (s : State) : Prop := s.block.TICK_CNT.toNat < s.cfg.DECIM.toNat

/-- (I3) `CMP[ch] ≤ TOP` for every `ch < NCH` (R32). -/
abbrev CommitsWithinTop (s : State) : Prop := ∀ ch ∈ s.cfg.channels, (s.block.CMP ch).toNat ≤ s.cfg.TOP.toNat

/-- (I4) if `HAS_OUT = 0` then `CMP[ch] = 0` (R32). -/
abbrev SilentWithoutOutput (s : State) : Prop :=
  s.cfg.HAS_OUT = false → ∀ ch ∈ s.cfg.channels, s.block.CMP ch = 0

/-- The invariants of every state reachable from `RESET` (R32). -/
abbrev Inv (s : State) : Prop :=
  PendingOnlyWhileEnabled s ∧ CounterBelowDecim s ∧ CommitsWithinTop s ∧ SilentWithoutOutput s

/-- The guard of `SERVICE`: an enabled tick is pending (R81). -/
abbrev TickPending (s : State) : Prop := s.block.EN = true ∧ s.block.IF = true

/-- The next `SERVICE` is a boundary: `n >= DECIM` for `n = TICK_CNT + 1` (R83). -/
abbrev AtBoundary (s : State) : Prop := s.cfg.DECIM.toNat ≤ s.block.TICK_CNT.toNat + 1

/-- The step from `s` to `t` left everything but the block and the output record: the configuration, the environment
and the events to come. -/
abbrev SameSurroundings (s t : State) : Prop := t.cfg = s.cfg ∧ t.env = s.env ∧ t.events = s.events

/-- The two states hold the same comparator registers. -/
abbrev SameComparators (s t : State) : Prop := ∀ ch, t.block.CMP ch = s.block.CMP ch

/-- Every event of the list is an operation: "no reserved byte in the list" (R210). -/
def noReservedByte (bs : List Byte) : Bool := bs.all fun b => (decode b).isSome

/-- The run of this event list from `s` gives every event a next state. -/
def runs (is : List Instr) (s : State) : Bool :=
  match runEvents is s with
  | .next _ => true
  | .fault _ => false
  | .refused _ => false

end Sys2Proof.Machine
end

