-- ==== Sys2Proof/Certificates/Slice0/Obligations.lean ====
section
/-! DEFINITION. The statements for the provers. Each says the rules it formalises. -/

open Sys2Proof Sys2Proof.Machine

/-! ## The operations -/

/-- `RESET` (R140). -/
def Obligations.ResetClearsTheBlock : Prop :=
  decode 0xF0 = some .reset ∧
  ∀ s : State, ∃ t, exec .reset s = .next t ∧
    t.block.EN = false ∧ t.block.IF = false ∧ t.block.TICK_CNT = 0 ∧
    (∀ ch ∈ s.cfg.channels, t.block.CMP ch = 0) ∧
    t.out = Output.empty ∧ SameSurroundings s t

/-- `NOP` (R141). -/
def Obligations.NopChangesNothing : Prop :=
  decode 0x00 = some .nop ∧
  ∀ s : State, ∃ t, exec .nop s = .next t ∧
    t.block = s.block ∧ t.out = Output.empty ∧ SameSurroundings s t

/-- `START` (R142): always `S1`, also when already started; it raises `irq_en` and `out_en`, pulls nothing and commits
nothing, and the first boundary after it is serviced tick number `DECIM`. -/
def Obligations.StartGivesTheStartedState : Prop :=
  decode 0x10 = some .start ∧
  ∀ s : State, ∃ t, exec .start s = .next t ∧
    t.block.EN = true ∧ t.block.IF = false ∧ t.block.TICK_CNT = 0 ∧
    (∀ ch ∈ s.cfg.channels, t.block.CMP ch = 0) ∧
    t.exports.irqEn = true ∧ t.exports.outEn = true ∧
    t.out = Output.empty ∧ SameSurroundings s t ∧
    ∀ k, k ≤ s.cfg.DECIM.toNat → ∃ u outs, runEvents (tickPairs k) t = .next (u, outs) ∧
      ((∃ o ∈ outs, o.pulled = true) ↔ k = s.cfg.DECIM.toNat)

/-- `STOP` (R143): a pending tick is dropped, counter and comparators are kept, both the interrupt enable and the pin
drive are off, no `SERVICE` can follow and every `TICK` is discarded. -/
def Obligations.StopDropsThePendingTick : Prop :=
  decode 0x20 = some .stop ∧
  ∀ s : State, ∃ t, exec .stop s = .next t ∧
    t.block.EN = false ∧ t.block.IF = false ∧
    t.block.TICK_CNT = s.block.TICK_CNT ∧ SameComparators s t ∧
    t.exports.irqEn = false ∧ t.exports.outEn = false ∧ t.exports.irqPend = false ∧
    t.exports.cmpVal = s.exports.cmpVal ∧ t.out = Output.empty ∧ SameSurroundings s t ∧
    exec .service t = .refused .noStep ∧
    ∃ u, exec .tick t = .next u ∧ u.block = t.block

/-- `RD idx` (R144, R43): answers `RegRead(idx)` for all 16 indices, changes no state field, and a second `RD` of the
index answers the same word. -/
def Obligations.ReadAnswersWithoutSideEffect : Prop :=
  ∀ idx : BitVec 4, decode (0x3#4 ++ idx) = some (.rd idx) ∧
  ∀ s : State, ∃ t, exec (.rd idx) s = .next t ∧
    t.out = { rsp := some (regRead s.cfg s.block idx), hooks := [], commits := [], pulled := false } ∧
    t.block = s.block ∧ SameSurroundings s t ∧
    ∃ u, exec (.rd idx) t = .next u ∧ u.out.rsp = t.out.rsp

/-- `TICK` (R80). -/
def Obligations.TickSetsPendingIfEnabled : Prop :=
  decode 0x80 = some .tick ∧
  ∀ s : State, ∃ t, exec .tick s = .next t ∧
    t.block.IF = (if s.block.EN then true else s.block.IF) ∧
    t.block.EN = s.block.EN ∧ t.block.TICK_CNT = s.block.TICK_CNT ∧ SameComparators s t ∧
    t.out = Output.empty ∧ SameSurroundings s t

/-- Lost ticks (R86): a tick while one is pending leaves the block, one `SERVICE` follows for the two ticks, with the
same result as for one, and no second one. -/
def Obligations.SecondTickIsMerged : Prop :=
  ∀ s : State, s.block.EN = true →
    (s.block.IF = true → ∃ t, exec .tick s = .next t ∧ t.block = s.block) ∧
    ∃ t two one, runEvents [.tick, .tick, .service] s = .next (t, two) ∧
      runEvents [.tick, .service] s = .next (t, one) ∧ exec .service t = .refused .noStep

/-- `SERVICE` runs exactly under its guard; the pending flag is then cleared, boundary or not, and `EN` stays
(R81, R82). -/
def Obligations.ServiceClearsPendingAlways : Prop :=
  ∀ s : State, TickPending s → ∃ t, exec .service s = .next t ∧
    t.block.IF = false ∧ t.block.EN = s.block.EN ∧ t.cfg = s.cfg ∧ t.events = s.events

/-- The count (R83): `n = TICK_CNT + 1` without wrap, `n >= DECIM` stores 0, else `n` is stored; the test is total, in
states outside the invariant too. -/
def Obligations.ServiceCountsToDecim : Prop :=
  ∀ s : State, TickPending s → ∃ t, exec .service s = .next t ∧
    t.block.TICK_CNT.toNat
      = (if s.cfg.DECIM.toNat ≤ s.block.TICK_CNT.toNat + 1 then 0 else s.block.TICK_CNT.toNat + 1) ∧
    (t.out.pulled = true ↔ s.cfg.DECIM.toNat ≤ s.block.TICK_CNT.toNat + 1)

/-- A non-boundary `SERVICE` changes nothing but `IF` and `TICK_CNT` and has no output (R85). -/
def Obligations.OffBoundaryServiceHasNoSideEffect : Prop :=
  ∀ s : State, TickPending s → ¬ AtBoundary s → ∃ t, exec .service s = .next t ∧
    t.block.IF = false ∧ t.block.TICK_CNT.toNat = s.block.TICK_CNT.toNat + 1 ∧
    t.block.EN = s.block.EN ∧ SameComparators s t ∧
    t.out = Output.empty ∧ SameSurroundings s t

/-- The boundary action (R120): one pull at the start, every lane scaled from its own sample of that one frame, lane 0
first; with an output stage each lane is committed, without one each lane goes to the hook and `CMP` is not written. -/
def Obligations.BoundaryActionCommitsOrHooks : Prop :=
  ∀ s : State, TickPending s → AtBoundary s → ∃ t, exec .service s = .next t ∧
    t.env.FRAMES = s.env.FRAMES ∧ t.env.PULLS = s.env.PULLS + 1 ∧
    t.out.pulled = true ∧ t.out.rsp = none ∧ t.block.TICK_CNT = 0 ∧
    (s.cfg.HAS_OUT = true →
      (∀ ch ∈ s.cfg.channels,
        t.block.CMP ch = scaleSat s.cfg (laneSample (s.env.frameAt s.env.PULLS) ch)) ∧
      t.out.hooks = [] ∧
      t.out.commits = s.cfg.channels.map fun ch =>
        (ch, scaleSat s.cfg (laneSample (s.env.frameAt s.env.PULLS) ch))) ∧
    (s.cfg.HAS_OUT = false →
      SameComparators s t ∧ t.out.commits = [] ∧
      t.out.hooks = s.cfg.channels.map fun ch =>
        (ch, scaleSat s.cfg (laneSample (s.env.frameAt s.env.PULLS) ch)))

/-- Visibility of a commit (R51, R66): after a boundary `SERVICE` with an output stage `cmp_val` shows the committed
values, and the step pulses `f_req` once and every `cmp_we`; without an output stage `cmp_val` is as before, no `cmp_we`
is pulsed and the scaled values are on the hook port instead, lane 0 first. -/
def Obligations.CommitsShowOnThePorts : Prop :=
  ∀ s : State, TickPending s → AtBoundary s → ∃ t, exec .service s = .next t ∧
    (outPulses t.cfg t.out).fReq = true ∧ (outPulses t.cfg t.out).rsp = none ∧
    (s.cfg.HAS_OUT = true →
      t.exports.cmpVal = t.out.commits.map (·.2) ∧
      t.exports.cmpVal = s.cfg.channels.map (fun ch => scaleSat s.cfg (laneSample (s.env.frameAt s.env.PULLS) ch)) ∧
      (outPulses t.cfg t.out).cmpWe = s.cfg.channels.map (fun _ => true) ∧
      (outPulses t.cfg t.out).hooks = []) ∧
    (s.cfg.HAS_OUT = false →
      t.exports.cmpVal = s.exports.cmpVal ∧
      (outPulses t.cfg t.out).cmpWe = s.cfg.channels.map (fun _ => false) ∧
      (outPulses t.cfg t.out).hooks = s.cfg.channels.map fun ch =>
        (ch, scaleSat s.cfg (laneSample (s.env.frameAt s.env.PULLS) ch)))

/-- Lanes are independent (R123): a lane's comparator depends on its own sample alone. -/
def Obligations.LaneDependsOnItsOwnSample : Prop :=
  ∀ (s s' : State) (ch : Channel), s'.cfg = s.cfg → ch ∈ s.cfg.channels → s.cfg.HAS_OUT = true →
    TickPending s → TickPending s' → AtBoundary s → AtBoundary s' →
    laneSample (s.env.frameAt s.env.PULLS) ch = laneSample (s'.env.frameAt s'.env.PULLS) ch →
    ∃ t t', exec .service s = .next t ∧ exec .service s' = .next t' ∧ t.block.CMP ch = t'.block.CMP ch

/-! ## The read view -/

/-- `STATUS` (R27): its fields at their bits. -/
def Obligations.StatusWordLayout : Prop :=
  ∀ (cfg : Config) (b : Block),
    (regRead cfg b 0).getLsbD 0 = b.EN ∧ (regRead cfg b 0).getLsbD 1 = b.IF ∧
    (regRead cfg b 0).extractLsb' 2 2 = b.TICK_CNT ∧ (regRead cfg b 0).extractLsb' 4 12 = 0

/-- `RegRead` as numbers (R145): every index, with no carry lost. -/
def Obligations.RegReadIsTheArithmeticMap : Prop :=
  ∀ (cfg : Config) (b : Block),
    (regRead cfg b 0).toNat = b.TICK_CNT.toNat * 4 + b.IF.toNat * 2 + b.EN.toNat ∧
    regRead cfg b 1 = b.CMP .ch0 ∧
    regRead cfg b 2 = (if cfg.NCH.toNat = 2 then b.CMP .ch1 else 0) ∧
    (regRead cfg b 3).toNat
      = cfg.SHIFT.toNat * 256 + cfg.NCH.toNat * 16 + cfg.HAS_OUT.toNat * 8 + cfg.DECIM.toNat ∧
    regRead cfg b 4 = cfg.BIAS ∧ regRead cfg b 5 = cfg.MULT ∧ regRead cfg b 6 = cfg.TOP ∧
    ∀ idx : BitVec 4, 7 ≤ idx.toNat → regRead cfg b idx = 0

/-! ## The scaler -/

/-- `ScaleSat` as one number (R106): bias, low clamp, multiply, floor shift, high clamp, all exact. -/
def Obligations.ScaleSatIsTheExactPipeline : Prop :=
  ∀ (cfg : Config) (s : Sample),
    ((scaleSat cfg s).toNat : Int)
      = min (max (s.toInt + cfg.BIAS.toNat) 0 * cfg.MULT.toNat / 2 ^ cfg.SHIFT.toNat) cfg.TOP.toNat

/-- The laws of `ScaleSat` (R108): monotone, bounded by `TOP`, floor, zero at and below `-BIAS`, zero with `MULT = 0`,
zero with `TOP = 0`. -/
def Obligations.ScaleSatLaws : Prop :=
  ∀ cfg : Config,
    (∀ s₁ s₂ : Sample, s₁.toInt ≤ s₂.toInt → (scaleSat cfg s₁).toNat ≤ (scaleSat cfg s₂).toNat) ∧
    (∀ s : Sample, (scaleSat cfg s).toNat ≤ cfg.TOP.toNat) ∧
    (∀ b0 : Nat, rescale cfg b0 * 2 ^ cfg.SHIFT.toNat ≤ b0 * cfg.MULT.toNat ∧
      b0 * cfg.MULT.toNat < (rescale cfg b0 + 1) * 2 ^ cfg.SHIFT.toNat) ∧
    (∀ s : Sample, s.toInt ≤ -(cfg.BIAS.toNat : Int) → scaleSat cfg s = 0) ∧
    (cfg.MULT = 0 → ∀ s : Sample, scaleSat cfg s = 0) ∧
    (cfg.TOP = 0 → ∀ s : Sample, scaleSat cfg s = 0)

/-- The identity constants are the bypass (R107). -/
def Obligations.IdentityScalerOnlyBiasesAndClamps : Prop :=
  ∀ (cfg : Config) (s : Sample), cfg.MULT = 1 → cfg.SHIFT = 0 →
    ((scaleSat cfg s).toNat : Int) = min (max (s.toInt + cfg.BIAS.toNat) 0) cfg.TOP.toNat

/-- The widths that suffice (R109): `b` 18 bits signed, `b0` 17, `p` and `q` 33 bits unsigned, `v` 16. -/
def Obligations.ScalerWidthsSuffice : Prop :=
  ∀ (cfg : Config) (s : Sample),
    -(2 ^ 17) ≤ biased cfg s ∧ biased cfg s < 2 ^ 17 ∧
    lowClamp (biased cfg s) < 2 ^ 17 ∧
    lowClamp (biased cfg s) * cfg.MULT.toNat < 2 ^ 33 ∧
    rescale cfg (lowClamp (biased cfg s)) < 2 ^ 33 ∧
    (scaleSat cfg s).toNat < 2 ^ 16

/-! ## Encoding -/

/-- Decode and encode agree (R65): both round trips. -/
def Obligations.DecodeEncodeRoundTrip : Prop :=
  (∀ i : Instr, decode (encode i) = some i) ∧
  ∀ (b : Byte) (i : Instr), decode b = some i → encode i = b

/-- The reserved bytes (R64): those of the rule's two lists and no other, 234 of the 256, and the machine refuses each
of them in every state. -/
def Obligations.ReservedBytesAreThoseListed : Prop :=
  (∀ b : Byte, decode b = none ↔
    opOf b ∈ [0x4, 0x5, 0x6, 0x7, 0xA, 0xB, 0xC, 0xD, 0xE] ∨
    (opOf b ∈ [0x0, 0x1, 0x2, 0x8, 0x9, 0xF] ∧ idxOf b ≠ 0)) ∧
  (List.range 256).countP (fun n => (decode (BitVec.ofNat 8 n)).isNone) = 234 ∧
  ∀ (s : State) (b : Byte) (rest : List Byte), s.events = b :: rest → decode b = none →
    step s = .refused (.reservedByte b)

/-- The operation map (R62): its rows, who causes each, and that they are pairwise disjoint; a byte decodes to an
operation exactly if it spells a row, and then to that row's operation. -/
def Obligations.OperationMapRows : Prop :=
  opTable.Pairwise (fun r q => r.disjoint q = true) ∧
  (opTable.map fun r => (r.mnemonic, r.pattern, r.mask)) =
    [("NOP", 0x00, 0xFF), ("START", 0x10, 0xFF), ("STOP", 0x20, 0xFF), ("RD", 0x30, 0xF0),
     ("TICK", 0x80, 0xFF), ("SERVICE", 0x90, 0xFF), ("RESET", 0xF0, 0xFF)] ∧
  (opTable.map fun r => (r.build 0).agent) =
    [.host, .host, .host, .host, .timer, .block, .resetSource] ∧
  ∀ (b : Byte) (i : Instr), decode b = some i ↔ ∃ r ∈ opTable, b &&& r.mask = r.pattern ∧ i = r.build (idxOf b)

/-- A few words of the map, bit by bit (V-DEC). -/
def Obligations.DecodeOfWrittenWords : Prop :=
  decode 0b00000000#8 = some .nop ∧ decode 0b00010000#8 = some .start ∧ decode 0b00100000#8 = some .stop ∧
  decode 0b00110110#8 = some (.rd 6) ∧ decode 0b10000000#8 = some .tick ∧ decode 0b10010000#8 = some .service ∧
  decode 0b11110000#8 = some .reset ∧ decode 0b00000001#8 = none ∧ decode 0b01000000#8 = none

/-- The pseudo-instructions and their bytes (R68). -/
def Obligations.PseudoExpansions : Prop :=
  bytesOf Pseudo.ts.expand = [0x80, 0x90] ∧
  (∀ n, bytesOf (Pseudo.ticks n).expand = (List.replicate n [0x80, 0x90]).flatten) ∧
  bytesOf Pseudo.restart.expand = [0x20, 0x10] ∧ bytesOf Pseudo.boot.expand = [0xF0, 0x10]

/-! ## Steps and runs -/

/-- A step runs the operation its next event spells, at the state with the rest of the event list. -/
def Obligations.StepRunsTheDecodedEvent : Prop :=
  ∀ (s : State) (b : Byte) (rest : List Byte) (i : Instr), s.events = b :: rest → decode b = some i →
    step s = exec i { s with events := rest }

/-- What is not a step of the block (R185): a reserved byte is refused, a `SERVICE` without its guard has no step, the
two are told apart, and the run has no next state from there on, in however many steps. -/
def Obligations.ReservedAndUnguardedAreNoSteps : Prop :=
  (∀ (s : State) (b : Byte) (rest : List Byte), s.events = b :: rest → decode b = none →
    step s = .refused (.reservedByte b) ∧ ∀ k t, Host.Core.run Sys2Proof.core (k + 1) s ≠ .next t) ∧
  (∀ (s : State) (b : Byte) (rest : List Byte), s.events = b :: rest → decode b = some .service → ¬ TickPending s →
    step s = .refused .noStep ∧ ∀ k t, Host.Core.run Sys2Proof.core (k + 1) s ≠ .next t)

/-- A run over the exhausted event list has no further step (R209; that `step` says so by a refusal is the model's
choice, log entry 6). -/
def Obligations.ExhaustedListEndsTheRun : Prop :=
  ∀ s : State, s.events = [] → step s = .refused .runOver

/-- A run containing a reserved byte is given no meaning (R64): no number of steps that reaches the byte ends in a next
state. -/
def Obligations.RunWithReservedByteHasNoEnd : Prop :=
  ∀ (s t : State) (before after : List Byte) (b : Byte) (k : Nat),
    s.events = before ++ b :: after → decode b = none → before.length < k →
    Host.Core.run Sys2Proof.core k s ≠ .next t

/-- Nothing can deadlock (R205): every operation but `SERVICE` is always enabled, and `SERVICE` is enabled whenever a
tick is pending, in every state of the invariant (I1); and no run outlasts its event list. -/
def Obligations.OnlyServiceCanBeDisabled : Prop :=
  (∀ (i : Instr) (s : State), i ≠ .service → ∃ t, exec i s = .next t) ∧
  (∀ s : State, PendingOnlyWhileEnabled s → ((∃ t, exec .service s = .next t) ↔ s.block.IF = true)) ∧
  ∀ (s t : State) (k : Nat), s.events.length < k → Host.Core.run Sys2Proof.core k s ≠ .next t

/-- Pulls (R126, R84): a boundary `SERVICE` pulls exactly once, no other step pulls, and the record says which. -/
def Obligations.OnlyBoundaryServicePulls : Prop :=
  ∀ (i : Instr) (s t : State), exec i s = .next t →
    (t.out.pulled = true ↔ i = .service ∧ AtBoundary s) ∧
    t.env.PULLS = s.env.PULLS + t.out.pulled.toNat ∧ t.env.FRAMES = s.env.FRAMES

/-- Single ownership (R35, R128): outside `RESET` and `START` only `SERVICE` writes the counter, and only a boundary
`SERVICE` with an output stage writes a comparator. -/
def Obligations.CounterAndComparatorsHaveOneOwner : Prop :=
  ∀ (i : Instr) (s t : State), exec i s = .next t → i ≠ .reset → i ≠ .start →
    (t.block.TICK_CNT ≠ s.block.TICK_CNT → i = .service) ∧
    ∀ ch, t.block.CMP ch ≠ s.block.CMP ch → i = .service ∧ AtBoundary s ∧ s.cfg.HAS_OUT = true

/-- The pending flag (R176): set by `TICK` with `EN = 1` and by nothing else, cleared by `SERVICE`, `START`, `STOP` and
`RESET` always, and by nothing else. -/
def Obligations.PendingFlagSetAndCleared : Prop :=
  ∀ (i : Instr) (s t : State), exec i s = .next t →
    t.block.IF =
      (if i = .service ∨ i = .start ∨ i = .stop ∨ i = .reset then false
       else if i = .tick ∧ s.block.EN = true then true
       else s.block.IF)

/-- The enable (R175, R21): set by `START`, cleared by `STOP` and `RESET`, changed by nothing else; while it is 0 a tick
neither sets `IF` nor causes a `SERVICE`. -/
def Obligations.EnableSetAndCleared : Prop :=
  (∀ (i : Instr) (s t : State), exec i s = .next t →
    t.block.EN = (if i = .start then true else if i = .stop ∨ i = .reset then false else s.block.EN)) ∧
  ∀ s : State, s.block.EN = false →
    exec .service s = .refused .noStep ∧ ∃ t, exec .tick s = .next t ∧ t.block.IF = s.block.IF

/-- No step writes or hooks a value above `TOP`, and a step's commits are what `CMP` shows after it
(R122, R9). -/
def Obligations.CommittedValuesAreHeldAndWithinTop : Prop :=
  ∀ (i : Instr) (s t : State), exec i s = .next t →
    (∀ c ∈ t.out.commits, t.block.CMP c.1 = c.2 ∧ c.2.toNat ≤ s.cfg.TOP.toNat) ∧
    ∀ c ∈ t.out.hooks, c.2.toNat ≤ s.cfg.TOP.toNat

/-- A step takes one event off the list and never changes the configuration or the frames given (R206, R30; that both
stand in the model's State is log entries 1, 3 and 5). -/
def Obligations.StepKeepsConfiguration : Prop :=
  ∀ s t : State, step s = .next t →
    t.cfg = s.cfg ∧ t.env.FRAMES = s.env.FRAMES ∧ ∃ b, s.events = b :: t.events

/-- Reset values (R33): the block's registers after `RESET`, what the host reads, and `PULLS` kept; and the same
registers in the model's state after reset. -/
def Obligations.ResetValues : Prop :=
  (∀ s : State, ∃ t, exec .reset s = .next t ∧
    regRead t.cfg t.block 0 = 0 ∧ regRead t.cfg t.block 1 = 0 ∧ regRead t.cfg t.block 2 = 0 ∧
    t.env.PULLS = s.env.PULLS) ∧
  State.reset.block.EN = false ∧ State.reset.block.IF = false ∧ State.reset.block.TICK_CNT = 0 ∧
  (∀ ch ∈ State.reset.cfg.channels, State.reset.block.CMP ch = 0) ∧ State.reset.env.PULLS = 0

/-- Idempotence of stop and start (R146): on the whole record `S` and on the exported signals. -/
def Obligations.StopStartIsStart : Prop :=
  ∀ s s' : State, s'.cfg = s.cfg → ∃ p a b r c,
    exec .stop s = .next p ∧ exec .start p = .next a ∧ exec .start s = .next b ∧
    exec .reset s' = .next r ∧ exec .start r = .next c ∧
    a.S = b.S ∧ b.S = c.S ∧ c.S = (true, false, 0, s.cfg.channels.map fun _ => 0) ∧
    a.exports = b.exports ∧ b.exports = c.exports

/-- The composite `TS` (R87): from a started state with nothing pending, `TICK` then `SERVICE` is defined and leaves
`TICK_CNT`, `CMP` and `PULLS` as `SERVICE` computes them from the starting counter; stopped, it has no step. -/
def Obligations.TickThenService : Prop :=
  (∀ s : State, s.block.EN = true → s.block.IF = false → ∃ t outs, runEvents Pseudo.ts.expand s = .next (t, outs) ∧
    t.block.EN = true ∧ t.block.IF = false ∧
    t.block.TICK_CNT.toNat = (if AtBoundary s then 0 else s.block.TICK_CNT.toNat + 1) ∧
    t.env.PULLS = s.env.PULLS + (if AtBoundary s then 1 else 0) ∧
    ∀ ch ∈ s.cfg.channels, t.block.CMP ch =
      if AtBoundary s ∧ s.cfg.HAS_OUT = true
      then scaleSat s.cfg (laneSample (s.env.frameAt s.env.PULLS) ch) else s.block.CMP ch) ∧
  ∀ s : State, s.block.EN = false →
    (∃ t, exec .tick s = .next t ∧ t.block = s.block) ∧ runEvents Pseudo.ts.expand s = .refused .noStep

/-- The rate invariant (R88): `N` serviced ticks after `START`. -/
def Obligations.RateInvariantAfterStart : Prop :=
  ∀ (s₀ s : State) (N : Nat), exec .start s₀ = .next s → ∃ t outs,
    runEvents (tickPairs N) s = .next (t, outs) ∧
    t.block.EN = true ∧ t.block.IF = false ∧
    t.block.TICK_CNT.toNat = N % s.cfg.DECIM.toNat ∧
    t.env.PULLS = s.env.PULLS + N / s.cfg.DECIM.toNat ∧
    outs.length = 2 * N ∧
    (outs.filter (·.pulled)).length = N / s.cfg.DECIM.toNat ∧
    (∀ k, 1 ≤ k → k ≤ N → ∃ o, outs[2 * k - 1]? = some o ∧ (o.pulled = true ↔ k % s.cfg.DECIM.toNat = 0)) ∧
    (s.cfg.HAS_OUT = true → ∀ ch ∈ s.cfg.channels,
      ((outs.flatMap (·.commits)).filter fun c => c.1 == ch).length = N / s.cfg.DECIM.toNat)

/-- Pulls and counter account for every serviced tick (from R83 and R84): over any run without `RESET` and `START`,
whatever else happens in it, `PULLS * DECIM + TICK_CNT` grows by the number of `SERVICE` steps. -/
def Obligations.EveryServiceIsAccountedFor : Prop :=
  ∀ (is : List Instr) (s t : State) (outs : List Output),
    (∀ i ∈ is, i ≠ .reset ∧ i ≠ .start) → CounterBelowDecim s → runEvents is s = .next (t, outs) →
    t.env.PULLS * s.cfg.DECIM.toNat + t.block.TICK_CNT.toNat
      = s.env.PULLS * s.cfg.DECIM.toNat + s.block.TICK_CNT.toNat + is.count .service

/-- The alternation flag (R23): with `DECIM = 2` bit `TICK_CNT[0]` alternates on every serviced tick and the counter
stays 0 or 1, with `DECIM = 1` the counter stays 0. -/
def Obligations.AlternationFlagToggles : Prop :=
  ∀ s : State, TickPending s → CounterBelowDecim s → ∃ t, exec .service s = .next t ∧
    (s.cfg.DECIM = .two → t.block.alternation = !s.block.alternation ∧ t.block.TICK_CNT.toNat ≤ 1) ∧
    (s.cfg.DECIM = .one → t.block.TICK_CNT = 0)

/-- The hazard (R203, R86, R172): a run that meets `PromptService` loses no tick. -/
def Obligations.PromptRunLosesNoTick : Prop :=
  ∀ (is : List Instr) (s : State), promptService is s = true → lostTicks is s = 0

/-- Every step keeps the invariants of R32. -/
def Obligations.StepKeepsInvariants : Prop :=
  ∀ s t : State, Inv s → step s = .next t → Inv t

/-- The invariants hold right after reset, whatever the configuration (R32, R33). -/
def Obligations.InvariantsAtReset : Prop :=
  Inv State.reset ∧ ∀ cfg : Config, Inv (State.powerOn cfg)

/-- The invariants of every state reachable from `RESET` (R32): any events after a `RESET` taken in any state. -/
def Obligations.InvariantsAfterReset : Prop :=
  ∀ (s t : State) (is : List Instr) (outs : List Output), runEvents (.reset :: is) s = .next (t, outs) →
    (t.block.IF = true → t.block.EN = true) ∧
    t.block.TICK_CNT.toNat < t.cfg.DECIM.toNat ∧
    (∀ ch ∈ t.cfg.channels, (t.block.CMP ch).toNat ≤ t.cfg.TOP.toNat) ∧
    (t.cfg.HAS_OUT = false → ∀ ch ∈ t.cfg.channels, t.block.CMP ch = 0)

/-! ## Ports -/

/-- The cmd port (R66): a byte is a command there exactly if it spells `NOP`, `START`, `STOP` or `RD`, and any other
byte is treated as reserved. That such a byte refuses the whole clock cycle, the `RESET` and `TICK` pulses in it
included, is the model's choice and no words of R66 (log entry 10). -/
def Obligations.CmdPortTakesHostCommandsOnly : Prop :=
  (∀ b : Byte, decodeCmd b =
    (match decode b with
      | some .nop => some .nop
      | some .start => some .start
      | some .stop => some .stop
      | some (.rd idx) => some (.rd idx)
      | some .tick => none
      | some .service => none
      | some .reset => none
      | none => none)) ∧
  ∀ (p : InPulses) (s : State) (b : Byte), p.cmd = some b → decodeCmd b = none →
    cycle p s = .refused (.reservedByte b)

/-- Same-cycle events (R177): a cycle is the run of its events in the order `RESET`, host command, `TICK`, and then
`SERVICE` exactly if it falls in the cycle and its guard holds after the others. So a `STOP` wins over a `TICK`, a `TICK`
with a `START` is the first of the new run, whether its `SERVICE` falls in the cycle too or later, and a `RESET` comes
before everything else. That `SERVICE` need not fall in the cycle is the model's reading, log entry 10. -/
def Obligations.SameCycleOrder : Prop :=
  (∀ (s : State) (rst tick service : Bool) (cmd : Option Instr),
    (∀ i ∈ cmd, i = .nop ∨ i = .start ∨ i = .stop ∨ ∃ idx, i = .rd idx) →
    ∃ t outs,
      runEvents ((if rst then [.reset] else []) ++ cmd.toList ++ (if tick then [.tick] else [])) s = .next (t, outs) ∧
      (service = true ∧ TickPending t → ∃ u, exec .service t = .next u ∧
        cycle { rst := rst, cmd := cmd.map encode, tick := tick, service := service } s
          = .next (u, outs ++ [u.out])) ∧
      (¬ (service = true ∧ TickPending t) →
        cycle { rst := rst, cmd := cmd.map encode, tick := tick, service := service } s = .next (t, outs))) ∧
  (∀ (s : State) (service : Bool), ∃ t outs,
    cycle { rst := false, cmd := some 0x20, tick := true, service := service } s = .next (t, outs) ∧
    t.block.EN = false ∧ t.block.IF = false) ∧
  (∀ s : State, ∃ t outs,
    cycle { rst := false, cmd := some 0x10, tick := true, service := false } s = .next (t, outs) ∧
    t.block.EN = true ∧ t.block.IF = true ∧ t.block.TICK_CNT = 0) ∧
  (∀ s : State, ∃ t outs,
    cycle { rst := false, cmd := some 0x10, tick := true, service := true } s = .next (t, outs) ∧
    runEvents [.start, .tick, .service] s = .next (t, outs) ∧
    t.block.EN = true ∧ t.block.IF = false ∧ t.block.TICK_CNT.toNat = 1 % s.cfg.DECIM.toNat) ∧
  ∀ (s r t : State) (cmd : Option Byte) (tick service : Bool) (outs : List Output), exec .reset s = .next r →
    (cycle { rst := true, cmd := cmd, tick := tick, service := service } s = .next (t, r.out :: outs) ↔
     cycle { rst := false, cmd := cmd, tick := tick, service := service } r = .next (t, outs))

/-! ## Build-time configuration -/

/-- `ConfigWF` (R6): a record becomes a machine's configuration exactly if it meets the rule, and the machine's
parameters are then the record's numbers. -/
def Obligations.ConfigWFDecidesTheMachine : Prop :=
  ∀ c : BuildConfig,
    ((∃ cfg, toConfig c = some cfg) ↔
      (c.DECIM = 1 ∨ c.DECIM = 2 ∨ c.DECIM = 4) ∧ (c.NCH = 1 ∨ c.NCH = 2) ∧ (c.HAS_OUT = 0 ∨ c.HAS_OUT = 1) ∧
      c.BIAS < 2 ^ 16 ∧ c.MULT < 2 ^ 16 ∧ c.TOP < 2 ^ 16 ∧ c.SHIFT < 32) ∧
    ∀ cfg, toConfig c = some cfg →
      cfg.DECIM.toNat = c.DECIM ∧ cfg.NCH.toNat = c.NCH ∧ cfg.HAS_OUT.toNat = c.HAS_OUT ∧
      cfg.BIAS.toNat = c.BIAS ∧ cfg.MULT.toNat = c.MULT ∧ cfg.SHIFT.toNat = c.SHIFT ∧ cfg.TOP.toNat = c.TOP

/-- `ConfigChecked` (R154, R171): a record that passes every check gives the machine right after reset; any other gives
no machine, and the diagnostic names exactly the checks it fails. R171 speaks of one failed check; that all of several
failed ones are named is the model's choice, log entry 19. -/
def Obligations.OnlyCheckedConfigurationsDeploy : Prop :=
  ∀ (pinSupported : BuildConfig → Bool) (c : BuildConfig),
    (configChecked pinSupported c = true →
      ∃ cfg, toConfig c = some cfg ∧ deploy pinSupported c = .ok (State.powerOn cfg)) ∧
    (configChecked pinSupported c = false → ∃ failed, deploy pinSupported c = .error failed ∧ failed ≠ [] ∧
      ∀ k, k ∈ failed ↔ k.passes pinSupported c = false)

/-- `CK_BIAS` (R149): the nominal range `-BIAS .. RANGE-1-BIAS` fits the sample port, and every nominal sample has a
biased value in `0 .. RANGE-1` (R101). -/
def Obligations.NominalSamplesFitAndBiasIntoRange : Prop :=
  ∀ c : BuildConfig, ckBias c = true →
    (-32768 ≤ -(c.BIAS : Int) ∧ (c.RANGE : Int) - 1 - c.BIAS ≤ 32767) ∧
    ∀ cfg, toConfig c = some cfg → ∀ s : Sample,
      -(c.BIAS : Int) ≤ s.toInt → s.toInt ≤ (c.RANGE : Int) - 1 - c.BIAS →
      0 ≤ biased cfg s ∧ biased cfg s ≤ (c.RANGE : Int) - 1

/-- A deployed configuration (R150, R151): a nominal sample's value is the rescaled value itself, no clamp engages, and
it is within one unit of the true rational scaling. -/
def Obligations.DeployedScalerIsAccurate : Prop :=
  ∀ (pinSupported : BuildConfig → Bool) (c : BuildConfig) (cfg : Config) (s : Sample),
    configChecked pinSupported c = true → toConfig c = some cfg →
    -(c.BIAS : Int) ≤ s.toInt → s.toInt ≤ (c.RANGE : Int) - 1 - c.BIAS →
    (scaleSat cfg s).toNat = ((biased cfg s).toNat * c.MULT) / 2 ^ c.SHIFT ∧
    |((scaleSat cfg s).toNat : Int) * c.TRUE_DEN - biased cfg s * c.TRUE_NUM| ≤ c.TRUE_DEN

/-- The audio rate (R148 with R88, "`audio_rate = hardware_tick_rate / decimation_factor` must hold exactly"): in a
deployed configuration, `TICK_RATE` serviced ticks after `START`, one second of them, pull exactly `AUDIO_RATE` frames,
for any number of seconds, and end on a boundary. -/
def Obligations.DeployedBlockRunsAtTheAudioRate : Prop :=
  ∀ (pinSupported : BuildConfig → Bool) (c : BuildConfig) (s₀ s : State) (seconds : Nat),
    configChecked pinSupported c = true → toConfig c = some s₀.cfg → exec .start s₀ = .next s →
    ∃ t outs, runEvents (tickPairs (c.TICK_RATE * seconds)) s = .next (t, outs) ∧
      t.env.PULLS = s.env.PULLS + c.AUDIO_RATE * seconds ∧
      (outs.filter (·.pulled)).length = c.AUDIO_RATE * seconds ∧ t.block.TICK_CNT = 0

/-! ## Ports and checks, field by field -/

/-- The exported signals (R34), in every state: `irq_en`, `out_en`, `irq_pend`, and `cmp_val` with one entry for each
channel there is, the channel's comparator. -/
def Obligations.ExportedSignals : Prop :=
  ∀ s : State, s.exports.irqEn = s.block.EN ∧ s.exports.outEn = s.block.EN ∧ s.exports.irqPend = s.block.IF ∧
    s.exports.cmpVal.length = s.cfg.NCH.toNat ∧
    ∀ ch ∈ s.cfg.channels, s.exports.cmpVal[ch.toNat]? = some (s.block.CMP ch)

/-- The output pulses of every step (R66): `rsp` exactly of an `RD`, its word; `f_req` exactly of a boundary `SERVICE`;
`cmp_we` of every lane exactly of one with an output stage; hook events exactly of one without, lane 0 first. -/
def Obligations.OutputPulsesOfEveryStep : Prop :=
  ∀ (i : Instr) (s t : State), exec i s = .next t →
    (∀ w, (outPulses t.cfg t.out).rsp = some w ↔ ∃ idx, i = .rd idx ∧ w = regRead s.cfg s.block idx) ∧
    ((outPulses t.cfg t.out).fReq = true ↔ i = .service ∧ AtBoundary s) ∧
    (outPulses t.cfg t.out).cmpWe
      = s.cfg.channels.map (fun _ => decide (i = .service ∧ AtBoundary s ∧ s.cfg.HAS_OUT = true)) ∧
    (outPulses t.cfg t.out).hooks
      = if i = .service ∧ AtBoundary s ∧ s.cfg.HAS_OUT = false
        then s.cfg.channels.map (fun ch => (ch, scaleSat s.cfg (laneSample (s.env.frameAt s.env.PULLS) ch)))
        else []

/-- What each build-time check is (R148 to R153), and that `ConfigChecked` is `ConfigWF` and all of them (R154).
`CK_TOP` is said of every biased value, as R151 explains it. That `TRUE_DEN >= 1` (R5) stands in `CK_ACC`, and that
`CK_PIN` is `HAS_OUT = 0` or the platform's predicate, is the model's reading, log entry 11. -/
def Obligations.BuildChecksAreThePredicates : Prop :=
  ∀ (pinSupported : BuildConfig → Bool) (c : BuildConfig),
    (ckRate c = true ↔
      (c.DECIM = 1 ∨ c.DECIM = 2 ∨ c.DECIM = 4) ∧ c.TICK_RATE = c.AUDIO_RATE * c.DECIM ∧ 1 ≤ c.AUDIO_RATE) ∧
    (ckBias c = true ↔
      2 ∣ c.RANGE ∧ 2 ≤ c.RANGE ∧ c.BIAS * 2 = c.RANGE ∧
      (c.RANGE : Int) - 1 - c.BIAS ≤ 32767 ∧ c.BIAS ≤ 32768) ∧
    (ckAcc c = true ↔
      1 ≤ c.TRUE_DEN ∧ ∀ b : Nat, b < c.RANGE →
        |(((b * c.MULT) >>> c.SHIFT : Nat) : Int) * c.TRUE_DEN - (b : Int) * c.TRUE_NUM| ≤ c.TRUE_DEN) ∧
    (ckTop c = true ↔ ∀ b : Nat, b ≤ c.RANGE - 1 → (b * c.MULT) >>> c.SHIFT ≤ c.TOP) ∧
    (ckPeriod c = true ↔
      c.CLOCK_HZ = c.PRESCALER * c.TICK_RATE * c.TOP * c.SLOPE ∧ (c.SLOPE = 1 ∨ c.SLOPE = 2) ∧
      1 ≤ c.PRESCALER ∧ 1 ≤ c.TOP) ∧
    (ckPin pinSupported c = true ↔ pinSupported c = true ∨ c.HAS_OUT = 0) ∧
    (configChecked pinSupported c = true ↔
      c.wf = true ∧ ckRate c = true ∧ ckBias c = true ∧ ckAcc c = true ∧ ckTop c = true ∧ ckPeriod c = true ∧
      ckPin pinSupported c = true)

/-! ## The end of a run -/

/-- The end of a run (R12, R209). A run is over exactly with no event left, and quiescent exactly if in addition
`IF = 0`, so it is neither with events still to come; as many steps as there are events end with the run over. A run that
is over is quiescent or, in every state of the invariant (I1), has an enabled `SERVICE` outstanding, never both. That
`step` then refuses is the model's choice, log entry 6. -/
def Obligations.QuiescentIsOverWithNothingPending : Prop :=
  (∀ s : State,
    (runIsOver s = true ↔ s.events = []) ∧ (runIsOver s = true ↔ step s = .refused .runOver) ∧
    (quiescent s = true ↔ s.events = [] ∧ s.block.IF = false) ∧
    (serviceOutstanding s = true ↔ s.events = [] ∧ ∃ t, exec .service s = .next t) ∧
    ¬ (quiescent s = true ∧ serviceOutstanding s = true)) ∧
  (∀ s : State, PendingOnlyWhileEnabled s → runIsOver s = true →
    quiescent s = true ∨ serviceOutstanding s = true) ∧
  ∀ s t : State, Host.Core.run Sys2Proof.core s.events.length s = .next t →
    runIsOver t = true ∧ (quiescent t = true ↔ t.block.IF = false)
end

