-- ==== Sys2Proof/Laws/State.lean ====
section
/-! SUPPORT. One lemma per field per update of the state, its block, its output record. -/

namespace Sys2Proof.Machine

@[simp] theorem Block.setEN_EN (b : Block) (v : Bool) : (b.setEN v).EN = v := rfl
@[simp] theorem Block.setEN_IF (b : Block) (v : Bool) : (b.setEN v).IF = b.IF := rfl
@[simp] theorem Block.setEN_TICK_CNT (b : Block) (v : Bool) : (b.setEN v).TICK_CNT = b.TICK_CNT := rfl
@[simp] theorem Block.setEN_CMP0 (b : Block) (v : Bool) : (b.setEN v).CMP0 = b.CMP0 := rfl
@[simp] theorem Block.setEN_CMP1 (b : Block) (v : Bool) : (b.setEN v).CMP1 = b.CMP1 := rfl

@[simp] theorem Block.setIF_EN (b : Block) (v : Bool) : (b.setIF v).EN = b.EN := rfl
@[simp] theorem Block.setIF_IF (b : Block) (v : Bool) : (b.setIF v).IF = v := rfl
@[simp] theorem Block.setIF_TICK_CNT (b : Block) (v : Bool) : (b.setIF v).TICK_CNT = b.TICK_CNT := rfl
@[simp] theorem Block.setIF_CMP0 (b : Block) (v : Bool) : (b.setIF v).CMP0 = b.CMP0 := rfl
@[simp] theorem Block.setIF_CMP1 (b : Block) (v : Bool) : (b.setIF v).CMP1 = b.CMP1 := rfl

@[simp] theorem Block.setTickCnt_EN (b : Block) (n : BitVec 2) : (b.setTickCnt n).EN = b.EN := rfl
@[simp] theorem Block.setTickCnt_IF (b : Block) (n : BitVec 2) : (b.setTickCnt n).IF = b.IF := rfl
@[simp] theorem Block.setTickCnt_TICK_CNT (b : Block) (n : BitVec 2) : (b.setTickCnt n).TICK_CNT = n := rfl
@[simp] theorem Block.setTickCnt_CMP0 (b : Block) (n : BitVec 2) : (b.setTickCnt n).CMP0 = b.CMP0 := rfl
@[simp] theorem Block.setTickCnt_CMP1 (b : Block) (n : BitVec 2) : (b.setTickCnt n).CMP1 = b.CMP1 := rfl

@[simp] theorem Block.setCMP_EN (b : Block) (ch : Channel) (v : Word) : (b.setCMP ch v).EN = b.EN := by cases ch <;> rfl
@[simp] theorem Block.setCMP_IF (b : Block) (ch : Channel) (v : Word) : (b.setCMP ch v).IF = b.IF := by cases ch <;> rfl
@[simp] theorem Block.setCMP_TICK_CNT (b : Block) (ch : Channel) (v : Word) : (b.setCMP ch v).TICK_CNT = b.TICK_CNT := by cases ch <;> rfl

@[simp] theorem Block.setEN_CMP (b : Block) (v : Bool) (ch : Channel) : (b.setEN v).CMP ch = b.CMP ch := by cases ch <;> rfl
@[simp] theorem Block.setIF_CMP (b : Block) (v : Bool) (ch : Channel) : (b.setIF v).CMP ch = b.CMP ch := by cases ch <;> rfl
@[simp] theorem Block.setTickCnt_CMP (b : Block) (n : BitVec 2) (ch : Channel) : (b.setTickCnt n).CMP ch = b.CMP ch := by cases ch <;> rfl

/-- A commit replaces the register of its own lane and no other (R122, R123). -/
@[simp] theorem Block.setCMP_CMP (b : Block) (ch ch' : Channel) (v : Word) :
    (b.setCMP ch v).CMP ch' = if ch' = ch then v else b.CMP ch' := by
  cases ch <;> cases ch' <;> rfl

@[simp] theorem State.after_cfg (s : State) (b : Block) (o : Output) : (s.after b o).cfg = s.cfg := rfl
@[simp] theorem State.after_block (s : State) (b : Block) (o : Output) : (s.after b o).block = b := rfl
@[simp] theorem State.after_env (s : State) (b : Block) (o : Output) : (s.after b o).env = s.env := rfl
@[simp] theorem State.after_out (s : State) (b : Block) (o : Output) : (s.after b o).out = o := rfl
@[simp] theorem State.after_events (s : State) (b : Block) (o : Output) : (s.after b o).events = s.events := rfl

@[simp] theorem pushEvent_cfg (s : State) (x : Byte) : (pushEvent s x).cfg = s.cfg := rfl
@[simp] theorem pushEvent_block (s : State) (x : Byte) : (pushEvent s x).block = s.block := rfl
@[simp] theorem pushEvent_env (s : State) (x : Byte) : (pushEvent s x).env = s.env := rfl
@[simp] theorem pushEvent_out (s : State) (x : Byte) : (pushEvent s x).out = s.out := rfl
@[simp] theorem pushEvent_events (s : State) (x : Byte) : (pushEvent s x).events = x :: s.events := rfl

@[simp] theorem Output.empty_rsp : Output.empty.rsp = none := rfl
@[simp] theorem Output.empty_hooks : Output.empty.hooks = [] := rfl
@[simp] theorem Output.empty_commits : Output.empty.commits = [] := rfl
@[simp] theorem Output.empty_pulled : Output.empty.pulled = false := rfl
@[simp] theorem Output.respond_rsp (v : Word) : (Output.respond v).rsp = some v := rfl
@[simp] theorem Output.respond_hooks (v : Word) : (Output.respond v).hooks = [] := rfl
@[simp] theorem Output.respond_commits (v : Word) : (Output.respond v).commits = [] := rfl
@[simp] theorem Output.respond_pulled (v : Word) : (Output.respond v).pulled = false := rfl
@[simp] theorem Output.addCommit_rsp (o : Output) (ch : Channel) (v : Word) : (o.addCommit ch v).rsp = o.rsp := rfl
@[simp] theorem Output.addCommit_hooks (o : Output) (ch : Channel) (v : Word) : (o.addCommit ch v).hooks = o.hooks := rfl
@[simp] theorem Output.addCommit_commits (o : Output) (ch : Channel) (v : Word) : (o.addCommit ch v).commits = o.commits ++ [(ch, v)] := rfl
@[simp] theorem Output.addCommit_pulled (o : Output) (ch : Channel) (v : Word) : (o.addCommit ch v).pulled = o.pulled := rfl
@[simp] theorem Output.addHook_rsp (o : Output) (ch : Channel) (v : Word) : (o.addHook ch v).rsp = o.rsp := rfl
@[simp] theorem Output.addHook_hooks (o : Output) (ch : Channel) (v : Word) : (o.addHook ch v).hooks = o.hooks ++ [(ch, v)] := rfl
@[simp] theorem Output.addHook_commits (o : Output) (ch : Channel) (v : Word) : (o.addHook ch v).commits = o.commits := rfl
@[simp] theorem Output.addHook_pulled (o : Output) (ch : Channel) (v : Word) : (o.addHook ch v).pulled = o.pulled := rfl

@[simp] theorem State.powerOn_cfg (cfg : Config) : (State.powerOn cfg).cfg = cfg := rfl
@[simp] theorem State.powerOn_block (cfg : Config) : (State.powerOn cfg).block = Block.reset := rfl
@[simp] theorem State.powerOn_env (cfg : Config) : (State.powerOn cfg).env = Env.initial := rfl
@[simp] theorem State.powerOn_out (cfg : Config) : (State.powerOn cfg).out = Output.empty := rfl
@[simp] theorem State.powerOn_events (cfg : Config) : (State.powerOn cfg).events = [] := rfl

end Sys2Proof.Machine
end

