-- ==== Sys2Proof/Laws/Ops.lean ====
section
/-! SUPPORT. What each shared operation can do, said once. -/

namespace Sys2Proof.Machine

/-- Every lane that exists is lane 0, or lane 1 of a two-channel block. -/
theorem mem_channels (cfg : Config) (ch : Channel) :
    ch ∈ cfg.channels ↔ ch = .ch0 ∨ ch = .ch1 ∧ cfg.NCH = .two := by
  cases h : cfg.NCH <;> cases ch <;> simp [Config.channels, h]

/-- The lanes without repeats. -/
theorem channels_nodup (cfg : Config) : cfg.channels.Nodup := by
  cases h : cfg.NCH <;> simp [Config.channels, h]

/-- Raising a tick: pending exactly when it was, or when the source is enabled. -/
@[simp] theorem raiseTick_IF (b : Block) : (raiseTick b).IF = (b.EN || b.IF) := by
  cases h : b.EN <;> simp [raiseTick, h]

@[simp] theorem raiseTick_EN (b : Block) : (raiseTick b).EN = b.EN := by
  cases h : b.EN <;> simp [raiseTick, h]

@[simp] theorem raiseTick_TICK_CNT (b : Block) : (raiseTick b).TICK_CNT = b.TICK_CNT := by
  cases h : b.EN <;> simp [raiseTick, h]

@[simp] theorem raiseTick_CMP (b : Block) (ch : Channel) : (raiseTick b).CMP ch = b.CMP ch := by
  cases h : b.EN <;> simp [raiseTick, h]

/-- Taking a tick is possible exactly when the guard holds, and then only clears the pending flag. -/
theorem takeTick_eq_some (b b' : Block) : takeTick b = some b' ↔ b.EN = true ∧ b.IF = true ∧ b' = b.setIF false := by
  cases h : b.EN <;> cases h' : b.IF <;> simp [takeTick, Block.serviceEnabled, h, h', eq_comm]

theorem takeTick_eq_none (b : Block) : takeTick b = none ↔ ¬ (b.EN = true ∧ b.IF = true) := by
  cases h : b.EN <;> cases h' : b.IF <;> simp [takeTick, Block.serviceEnabled, h, h']

/-- Clearing the comparators: every lane that exists reads 0, the others are left. -/
theorem clearCMP_CMP (cfg : Config) (b : Block) (ch : Channel) :
    (clearCMP cfg b).CMP ch = if ch ∈ cfg.channels then 0 else b.CMP ch := by
  cases h : cfg.NCH <;> cases ch <;> simp [clearCMP, Config.channels, h]

@[simp] theorem clearCMP_EN (cfg : Config) (b : Block) : (clearCMP cfg b).EN = b.EN := by
  cases h : cfg.NCH <;> simp [clearCMP, Config.channels, h]

@[simp] theorem clearCMP_IF (cfg : Config) (b : Block) : (clearCMP cfg b).IF = b.IF := by
  cases h : cfg.NCH <;> simp [clearCMP, Config.channels, h]

@[simp] theorem clearCMP_TICK_CNT (cfg : Config) (b : Block) : (clearCMP cfg b).TICK_CNT = b.TICK_CNT := by
  cases h : cfg.NCH <;> simp [clearCMP, Config.channels, h]

/-- What `RESET` and `START` leave, field by field. -/
@[simp] theorem initialise_EN (cfg : Config) (en : Bool) (b : Block) : (initialise cfg en b).EN = en := by
  simp [initialise]

@[simp] theorem initialise_IF (cfg : Config) (en : Bool) (b : Block) : (initialise cfg en b).IF = false := by
  simp [initialise]

@[simp] theorem initialise_TICK_CNT (cfg : Config) (en : Bool) (b : Block) : (initialise cfg en b).TICK_CNT = 0 := by
  simp [initialise]

theorem initialise_CMP (cfg : Config) (en : Bool) (b : Block) (ch : Channel) :
    (initialise cfg en b).CMP ch = if ch ∈ cfg.channels then 0 else b.CMP ch := by
  simp [initialise, clearCMP_CMP]

/-- The high clamp loses no bit: its value is the smaller of `q` and `TOP`. -/
@[simp] theorem highClamp_toNat (cfg : Config) (q : Nat) : (highClamp cfg q).toNat = min q cfg.TOP.toNat := by
  have := cfg.TOP.isLt
  simp only [highClamp, BitVec.toNat_ofNat]
  exact Nat.mod_eq_of_lt (by omega)

/-- The lanes with an output stage: every lane that exists is committed, in order, and nothing is hooked. -/
theorem writeLanes_of_out (cfg : Config) (f : Frame) (b : Block) (h : cfg.HAS_OUT = true) :
    (writeLanes cfg f b).2
        = { rsp := none, hooks := [], pulled := true,
            commits := cfg.channels.map fun ch => (ch, scaleSat cfg (laneSample f ch)) } ∧
      ∀ ch, (writeLanes cfg f b).1.CMP ch
        = if ch ∈ cfg.channels then scaleSat cfg (laneSample f ch) else b.CMP ch := by
  cases hn : cfg.NCH <;> refine ⟨by simp [writeLanes, writeLane, Config.channels, hn, h, Output.addCommit, Output.empty],
    fun ch => ?_⟩ <;> cases ch <;> simp [writeLanes, writeLane, Config.channels, hn, h]

/-- The lanes without an output stage: the block is left alone, and every lane goes to the hook, in order. -/
theorem writeLanes_of_no_out (cfg : Config) (f : Frame) (b : Block) (h : cfg.HAS_OUT = false) :
    writeLanes cfg f b
      = (b, { rsp := none, commits := [], pulled := true,
              hooks := cfg.channels.map fun ch => (ch, scaleSat cfg (laneSample f ch)) }) := by
  cases hn : cfg.NCH <;> simp [writeLanes, writeLane, Config.channels, hn, h, Output.addHook, Output.empty]

/-- Writing the lanes changes neither flag nor the counter. -/
theorem writeLanes_flags (cfg : Config) (f : Frame) (b : Block) :
    (writeLanes cfg f b).1.EN = b.EN ∧ (writeLanes cfg f b).1.IF = b.IF
      ∧ (writeLanes cfg f b).1.TICK_CNT = b.TICK_CNT := by
  cases hn : cfg.NCH <;> cases h : cfg.HAS_OUT <;> simp [writeLanes, writeLane, Config.channels, hn, h]

@[simp] theorem boundaryAction_cfg (s : State) (b : Block) : (boundaryAction s b).cfg = s.cfg := rfl

@[simp] theorem boundaryAction_events (s : State) (b : Block) : (boundaryAction s b).events = s.events := rfl

@[simp] theorem boundaryAction_env (s : State) (b : Block) :
    (boundaryAction s b).env = { s.env with PULLS := s.env.PULLS + 1 } := rfl

@[simp] theorem boundaryAction_block (s : State) (b : Block) :
    (boundaryAction s b).block = (writeLanes s.cfg s.env.nextFrame b).1 := rfl

@[simp] theorem boundaryAction_out (s : State) (b : Block) :
    (boundaryAction s b).out = (writeLanes s.cfg s.env.nextFrame b).2 := rfl

/-- Writing the lanes is what makes a step a boundary. -/
@[simp] theorem writeLanes_pulled (cfg : Config) (f : Frame) (b : Block) : (writeLanes cfg f b).2.pulled = true := by
  cases hn : cfg.NCH <;> cases h : cfg.HAS_OUT <;> simp [writeLanes, writeLane, Config.channels, hn, h]

/-- Writing the lanes answers no `RD`. -/
@[simp] theorem writeLanes_rsp (cfg : Config) (f : Frame) (b : Block) : (writeLanes cfg f b).2.rsp = none := by
  cases hn : cfg.NCH <;> cases h : cfg.HAS_OUT <;> simp [writeLanes, writeLane, Config.channels, hn, h]

/-- The boundary test as an inequality of numbers. -/
theorem isBoundary_iff (cfg : Config) (b : Block) :
    isBoundary cfg b = true ↔ cfg.DECIM.toNat ≤ b.TICK_CNT.toNat + 1 :=
  decide_eq_true_iff

/-- The boundary test does not read the flags. -/
@[simp] theorem isBoundary_setIF (cfg : Config) (b : Block) (v : Bool) :
    isBoundary cfg (b.setIF v) = isBoundary cfg b := rfl

@[simp] theorem nextCount_setIF (b : Block) (v : Bool) : nextCount (b.setIF v) = nextCount b := rfl

/-- The handler's body either counts, or runs the boundary action with the counter at 0. -/
theorem countTick_cases (s : State) (b : Block) :
    (isBoundary s.cfg b = true ∧ countTick s b = boundaryAction s (b.setTickCnt 0)) ∨
    (isBoundary s.cfg b = false ∧
      countTick s b = s.after (b.setTickCnt (BitVec.ofNat 2 (nextCount b))) Output.empty) := by
  cases h : isBoundary s.cfg b <;> simp [countTick, h]

/-- Off a boundary the counter does not wrap: `DECIM` is at most 4. -/
theorem nextCount_lt (cfg : Config) (b : Block) (h : isBoundary cfg b = false) : nextCount b < 4 := by
  cases hd : cfg.DECIM <;> simp [isBoundary, hd, Decim.toNat] at h <;> omega

/-- The read view, index by index. -/
@[simp] theorem regRead_status (cfg : Config) (b : Block) : regRead cfg b 0#4 = b.status := rfl
@[simp] theorem regRead_cmp0 (cfg : Config) (b : Block) : regRead cfg b 1#4 = b.CMP .ch0 := rfl
@[simp] theorem regRead_cmp1 (cfg : Config) (b : Block) : regRead cfg b 2#4 = readCmp1 cfg b := rfl
@[simp] theorem regRead_cfg (cfg : Config) (b : Block) : regRead cfg b 3#4 = cfgWord cfg := rfl
@[simp] theorem regRead_bias (cfg : Config) (b : Block) : regRead cfg b 4#4 = cfg.BIAS := rfl
@[simp] theorem regRead_mult (cfg : Config) (b : Block) : regRead cfg b 5#4 = cfg.MULT := rfl
@[simp] theorem regRead_top (cfg : Config) (b : Block) : regRead cfg b 6#4 = cfg.TOP := rfl

end Sys2Proof.Machine
end

