-- ==== Sys2Proof/Laws/Exec.lean ====
section
/-! SUPPORT. What each operation's meaning answers, and what one step of a run can do. -/

namespace Sys2Proof.Machine

@[simp] theorem exec_nop (s : State) : exec .nop s = .next (s.after s.block Output.empty) := rfl

@[simp] theorem exec_start (s : State) :
    exec .start s = .next (s.after (initialise s.cfg true s.block) Output.empty) := rfl

@[simp] theorem exec_stop (s : State) :
    exec .stop s = .next (s.after ((s.block.setEN false).setIF false) Output.empty) := rfl

@[simp] theorem exec_rd (idx : BitVec 4) (s : State) :
    exec (.rd idx) s = .next (s.after s.block (Output.respond (regRead s.cfg s.block idx))) := rfl

@[simp] theorem exec_tick (s : State) : exec .tick s = .next (s.after (raiseTick s.block) Output.empty) := rfl

@[simp] theorem exec_reset (s : State) :
    exec .reset s = .next (s.after (initialise s.cfg false s.block) Output.empty) := rfl

/-- `SERVICE` under its guard. -/
theorem exec_service_of_guard (s : State) (hEN : s.block.EN = true) (hIF : s.block.IF = true) :
    exec .service s = .next (countTick s (s.block.setIF false)) := by
  simp [exec, execService, (takeTick_eq_some s.block _).2 ⟨hEN, hIF, rfl⟩]

/-- `SERVICE` without its guard. -/
theorem exec_service_of_not_guard (s : State) (h : ¬ (s.block.EN = true ∧ s.block.IF = true)) :
    exec .service s = .refused .noStep := by
  simp [exec, execService, (takeTick_eq_none s.block).2 h]

/-- Everything `SERVICE` can do when it answers a next state. -/
theorem exec_service_cases {s t : State} (h : exec .service s = .next t) :
    s.block.EN = true ∧ s.block.IF = true ∧ t = countTick s (s.block.setIF false) := by
  by_cases hg : s.block.EN = true ∧ s.block.IF = true
  · rw [exec_service_of_guard s hg.1 hg.2] at h
    exact ⟨hg.1, hg.2, by simpa using h.symm⟩
  · simp [exec_service_of_not_guard s hg] at h

/-- Everything a step can do when it answers a next state: it takes the head of the event list, which is an operation,
and runs it at the state with the rest of the list. -/
theorem step_cases {s t : State} (h : step s = .next t) :
    ∃ b rest i, s.events = b :: rest ∧ decode b = some i ∧ exec i { s with events := rest } = .next t := by
  cases he : s.events with
  | nil => simp [step, nextEvent, he] at h
  | cons b rest =>
    simp only [step, nextEvent, he, runByte] at h
    cases hd : decode b with
    | none => simp [hd] at h
    | some i => exact ⟨b, rest, i, rfl, hd, by simpa [hd] using h⟩

end Sys2Proof.Machine
end

