-- ==== Sys2Proof/Laws/PerInstr.lean ====
section
/-! SUPPORT. Facts stated for every operation as syntax, one lemma per constructor. -/

namespace Sys2Proof.Laws

/-- The encoding of an operation is an event byte whose operation code is assigned and whose `IDX` field is 0 for every
operation but `RD` (R60, R64). -/
def EncodesWellFormed.Statement (i : Instr) : Prop := (EventFields.ofByte (encode i)).wellFormed = true

theorem EncodesWellFormed.nop : EncodesWellFormed.Statement .nop := by unfold Statement; decide
theorem EncodesWellFormed.start : EncodesWellFormed.Statement .start := by unfold Statement; decide
theorem EncodesWellFormed.stop : EncodesWellFormed.Statement .stop := by unfold Statement; decide
theorem EncodesWellFormed.rd (idx : BitVec 4) : EncodesWellFormed.Statement (.rd idx) := by
  unfold Statement; revert idx; decide
theorem EncodesWellFormed.tick : EncodesWellFormed.Statement .tick := by unfold Statement; decide
theorem EncodesWellFormed.service : EncodesWellFormed.Statement .service := by unfold Statement; decide
theorem EncodesWellFormed.reset : EncodesWellFormed.Statement .reset := by unfold Statement; decide

end Sys2Proof.Laws
end

