-- ==== Sys2Proof/Laws/Runs.lean ====
section
/-! SUPPORT. Runs: how they compose, and the one induction over a run. -/

namespace Sys2Proof.Machine

@[simp] theorem andThen_next {σ τ φ ρ : Type} (s : σ) (f : σ → Host.Outcome τ φ ρ) :
    andThen (.next s) f = f s := rfl

@[simp] theorem andThen_refused {σ τ φ ρ : Type} (r : ρ) (f : σ → Host.Outcome τ φ ρ) :
    andThen (.refused r) f = .refused r := rfl

@[simp] theorem andThen_fault {σ τ φ ρ : Type} (r : φ) (f : σ → Host.Outcome τ φ ρ) :
    andThen (.fault r) f = .fault r := rfl

/-- What it takes for a sequence to answer a next state. -/
theorem andThen_eq_next {σ τ φ ρ : Type} {o : Host.Outcome σ φ ρ} {f : σ → Host.Outcome τ φ ρ} {t : τ} :
    andThen o f = .next t ↔ ∃ s, o = .next s ∧ f s = .next t := by
  cases o <;> simp [andThen]

@[simp] theorem runEvents_nil (s : State) : runEvents [] s = .next (s, []) := rfl

theorem runEvents_cons (i : Instr) (is : List Instr) (s : State) :
    runEvents (i :: is) s =
      andThen (exec i s) fun t => andThen (runEvents is t) fun r => .next (r.1, t.out :: r.2) := rfl

/-- Everything a run of one more event can do when it ends in a state. -/
theorem runEvents_cons_cases {i : Instr} {is : List Instr} {s t : State} {outs : List Output}
    (h : runEvents (i :: is) s = .next (t, outs)) :
    ∃ u rest, exec i s = .next u ∧ runEvents is u = .next (t, rest) ∧ outs = u.out :: rest := by
  obtain ⟨u, hu, h⟩ := andThen_eq_next.1 h
  obtain ⟨⟨t', rest⟩, hr, h⟩ := andThen_eq_next.1 h
  simp only [Host.Outcome.next.injEq, Prod.mk.injEq] at h
  obtain ⟨rfl, rfl⟩ := h
  exact ⟨u, rest, hu, hr, rfl⟩

/-- A run of two lists is the run of the second after the run of the first. -/
theorem runEvents_append (xs ys : List Instr) (s : State) :
    runEvents (xs ++ ys) s =
      andThen (runEvents xs s) fun r => andThen (runEvents ys r.1) fun q => .next (q.1, r.2 ++ q.2) := by
  induction xs generalizing s with
  | nil => cases h : runEvents ys s <;> simp [h]
  | cons i is ih =>
    rw [List.cons_append, runEvents_cons, runEvents_cons]
    cases he : exec i s with
    | next t =>
      simp only [andThen_next, ih]
      cases hx : runEvents is t with
      | next r => cases hy : runEvents ys r.1 <;> simp [hy]
      | fault r => simp
      | refused r => simp
    | fault r => simp
    | refused r => simp

/-- The one induction over a run: what every operation keeps, a run keeps. -/
theorem runEvents_keeps {P : State → Prop} (keep : ∀ i s t, P s → exec i s = .next t → P t)
    {is : List Instr} {s t : State} {outs : List Output} (hs : P s) (h : runEvents is s = .next (t, outs)) : P t := by
  induction is generalizing s outs with
  | nil =>
    simp only [runEvents_nil, Host.Outcome.next.injEq, Prod.mk.injEq] at h
    exact h.1 ▸ hs
  | cons i is ih =>
    obtain ⟨u, rest, hu, hr, -⟩ := runEvents_cons_cases h
    exact ih (keep i s u hs hu) hr

theorem runIsOver_iff (s : State) : runIsOver s = true ↔ s.events = [] := by simp [runIsOver]

theorem quiescent_iff (s : State) : quiescent s = true ↔ s.events = [] ∧ s.block.IF = false := by
  simp [quiescent, runIsOver]

theorem serviceOutstanding_iff (s : State) :
    serviceOutstanding s = true ↔ s.events = [] ∧ s.block.EN = true ∧ s.block.IF = true := by
  simp [serviceOutstanding, runIsOver, Block.serviceEnabled]

/-- Everything `k + 1` steps of a machine can do when they end in a next state. -/
theorem run_succ_cases (M : Host.Core) {k : Nat} {s t : M.State} (h : M.run (k + 1) s = .next t) :
    ∃ u, M.step s = .next u ∧ M.run k u = .next t := by
  rw [Host.Core.run] at h
  cases hs : M.step s with
  | next u => rw [hs] at h; exact ⟨u, rfl, h⟩
  | fault r => rw [hs] at h; cases h
  | refused r => rw [hs] at h; cases h

/-- The same for this machine, in the names of this package. -/
theorem core_run_succ_cases {k : Nat} {s t : Machine.State} (h : Host.Core.run Sys2Proof.core (k + 1) s = .next t) :
    ∃ u, step s = .next u ∧ Host.Core.run Sys2Proof.core k u = .next t := run_succ_cases Sys2Proof.core h

end Sys2Proof.Machine
end

