-- ==== Sys2Proof/Laws/Ports.lean ====
section
/-! SUPPORT. The physical side: the signals field by field, and what one clock cycle can do. -/

namespace Sys2Proof.Machine

@[simp] theorem exports_irqEn (s : State) : s.exports.irqEn = s.block.EN := rfl
@[simp] theorem exports_outEn (s : State) : s.exports.outEn = s.block.EN := rfl
@[simp] theorem exports_irqPend (s : State) : s.exports.irqPend = s.block.IF := rfl
@[simp] theorem exports_cmpVal (s : State) : s.exports.cmpVal = s.cfg.channels.map s.block.CMP := rfl

@[simp] theorem outPulses_rsp (cfg : Config) (o : Output) : (outPulses cfg o).rsp = o.rsp := rfl
@[simp] theorem outPulses_fReq (cfg : Config) (o : Output) : (outPulses cfg o).fReq = o.pulled := rfl
@[simp] theorem outPulses_hooks (cfg : Config) (o : Output) : (outPulses cfg o).hooks = o.hooks := rfl

/-- No commit, no pulse. -/
theorem outPulses_cmpWe_of_no_commit (cfg : Config) (o : Output) (h : o.commits = []) :
    (outPulses cfg o).cmpWe = cfg.channels.map fun _ => false := by
  simp [outPulses, h]

/-- A commit on every lane pulses every lane. -/
theorem outPulses_cmpWe_of_commits (cfg : Config) (o : Output) (v : Channel → Word)
    (h : o.commits = cfg.channels.map fun ch => (ch, v ch)) :
    (outPulses cfg o).cmpWe = cfg.channels.map fun _ => true := by
  cases hn : cfg.NCH <;> simp [outPulses, h, Config.channels, hn]

/-- A host command's byte on the cmd port is that command. -/
theorem cmdEvents_encode (cmd : Option Instr) (h : ∀ i ∈ cmd, i.agent = .host) :
    cmdEvents (cmd.map encode) = .ok cmd.toList := by
  cases cmd with
  | none => rfl
  | some i =>
    have ha := h i rfl
    cases i with
    | rd idx => revert idx; decide
    | nop => rfl
    | start => rfl
    | stop => rfl
    | tick => cases ha
    | service => cases ha
    | reset => cases ha

/-- `SERVICE` falls in the cycle exactly if asked for and enabled. -/
theorem serviceEvents_of_guard (p : InPulses) (s : State) (hp : p.service = true)
    (h : s.block.EN = true ∧ s.block.IF = true) : serviceEvents p s = [.service] := by
  simp [serviceEvents, Block.serviceEnabled, hp, h.1, h.2]

theorem serviceEvents_of_not_guard (p : InPulses) (s : State)
    (h : ¬ (p.service = true ∧ s.block.EN = true ∧ s.block.IF = true)) : serviceEvents p s = [] := by
  rw [serviceEvents, if_neg]
  simpa [Block.serviceEnabled, and_assoc] using h

end Sys2Proof.Machine
end

