-- ==== Sys2Proof/Tests/Slice0.lean ====
section
/-! SUPPORT. Tests: expected results are those of spec/95_test_vectors.md (named in each comment) or of the rule's own
example; then one witness for the hypotheses of each statement that has some. -/

namespace Sys2Proof.Tests

open Sys2Proof Sys2Proof.Machine

/-! ## Helpers -/

/-- `CFG_ID8` (95, Part 0). -/
def id8 (d : Decim) (n : ChannelCount) (out : Bool) : Config :=
  { DECIM := d, NCH := n, HAS_OUT := out, BIAS := 128, MULT := 1, SHIFT := 0, TOP := 255 }

/-- `CFG_DN244` (95, Part 0). -/
def dn244 (d : Decim) : Config :=
  { DECIM := d, NCH := .one, HAS_OUT := true, BIAS := 128, MULT := 61, SHIFT := 6, TOP := 244 }

/-- The extreme parameters of V-SCALE. -/
def extreme (shift : BitVec 5) : Config :=
  { DECIM := .one, NCH := .one, HAS_OUT := true, BIAS := 65535, MULT := 65535, SHIFT := shift, TOP := 65535 }

/-- A small state `{EN, IF, TICK_CNT, CMP0, CMP1}` with one frame to come. -/
def at_ (cfg : Config) (en ifl : Bool) (c : BitVec 2) (x y : Word) (f : Frame) : State :=
  { State.powerOn cfg with
    block := { EN := en, IF := ifl, TICK_CNT := c, CMP0 := x, CMP1 := y }, env := { FRAMES := [f], PULLS := 0 } }

/-- What a test reads of an outcome: the block, the record and the pulls of a next state. -/
def seen : Host.Outcome State Fault Refusal → Option (Block × Output × Nat)
  | .next t => some (t.block, t.out, t.env.PULLS)
  | .fault _ => none
  | .refused _ => none

/-- The frame `(5)` of V-SVC. -/
def five : Frame := { ch0 := 5, ch1 := 0 }

/-- The frame `(-128, 127)` of V-BA. -/
def ends : Frame := { ch0 := BitVec.ofInt 16 (-128), ch1 := 127 }

/-- A record that passes every check (R154), with a range small enough to evaluate: `RANGE = 2`. -/
def small : BuildConfig :=
  { DECIM := 2, NCH := 1, HAS_OUT := 1, BIAS := 1, MULT := 1, SHIFT := 0, TOP := 1, RANGE := 2, TRUE_NUM := 1,
    TRUE_DEN := 1, TICK_RATE := 4, AUDIO_RATE := 2, CLOCK_HZ := 4, PRESCALER := 1, SLOPE := 1 }

/-- `CFG_DN244` with the metadata of 95 Part 4. -/
def dn244Build : BuildConfig :=
  { DECIM := 4, NCH := 1, HAS_OUT := 1, BIAS := 128, MULT := 61, SHIFT := 6, TOP := 244, RANGE := 256, TRUE_NUM := 244,
    TRUE_DEN := 256, TICK_RATE := 40000, AUDIO_RATE := 10000, CLOCK_HZ := 9760000, PRESCALER := 1, SLOPE := 1 }

/-- `CFG_DOC_244`: the document's pair (134, 7) with a period of 244 (95, Part 0). -/
def doc244 : BuildConfig := { dn244Build with MULT := 134, SHIFT := 7, TRUE_NUM := 256, TRUE_DEN := 244 }

/-- A platform that supports every pin. -/
def anyPin : BuildConfig → Bool := fun _ => true

/-! ## Well-formedness: one ill-formed term per check -/

theorem test_wf_event : (EventFields.mk 0x3 15).wellFormed = true := by decide
theorem test_wf_event_unassigned_op : (EventFields.mk 0x4 0).wellFormed = false := by decide
theorem test_wf_event_operand_on_nop : (EventFields.mk 0x0 1).wellFormed = false := by decide
theorem test_wf_config : small.wf = true := by decide
theorem test_wf_config_decim : BuildConfig.wf { small with DECIM := 3 } = false := by decide
theorem test_wf_config_nch : BuildConfig.wf { small with NCH := 3 } = false := by decide
theorem test_wf_config_has_out : BuildConfig.wf { small with HAS_OUT := 2 } = false := by decide
theorem test_wf_config_bias : BuildConfig.wf { small with BIAS := 65536 } = false := by decide
theorem test_wf_config_mult : BuildConfig.wf { small with MULT := 65536 } = false := by decide
theorem test_wf_config_top : BuildConfig.wf { small with TOP := 65536 } = false := by decide
theorem test_wf_config_shift : BuildConfig.wf { small with SHIFT := 32 } = false := by decide

/-! ## Decoding: words written out from R60 and R62 (V-DEC) -/

theorem test_decode_nop : decode 0b00000000#8 = some .nop := by decide
theorem test_decode_start : decode 0b00010000#8 = some .start := by decide
theorem test_decode_stop : decode 0b00100000#8 = some .stop := by decide
theorem test_decode_rd_5 : decode 0b00110101#8 = some (.rd 5) := by decide
theorem test_decode_rd_15 : decode 0b00111111#8 = some (.rd 15) := by decide
theorem test_decode_tick : decode 0b10000000#8 = some .tick := by decide
theorem test_decode_service : decode 0b10010000#8 = some .service := by decide
theorem test_decode_reset : decode 0b11110000#8 = some .reset := by decide
theorem test_decode_reserved :
    [0x01, 0x11, 0x2F, 0x40, 0x7F, 0x81, 0x91, 0xA0, 0xE0, 0xF1, 0xFF].all (fun b : Byte => (decode b).isNone) = true := by
  decide
theorem test_encode_rd_5 : encode (.rd 5) = 0x35 := by decide
theorem test_decodeTableWord : decodeTableWord 8 0x3F = some (.rd 15) ∧ decodeTableWord 8 0x41 = none := by decide

/-! ## Operations -/

/-- V-LIFE, `RESET`. -/
theorem test_reset : seen (exec .reset (at_ (id8 .two .two true) true true 3 200 17 five))
    = some ({ EN := false, IF := false, TICK_CNT := 0, CMP0 := 0, CMP1 := 0 }, Output.empty, 0) := by decide
/-- V-LIFE, `NOP`. -/
theorem test_nop : seen (exec .nop (at_ (id8 .two .two true) true true 3 200 17 five))
    = some ({ EN := true, IF := true, TICK_CNT := 3, CMP0 := 200, CMP1 := 17 }, Output.empty, 0) := by decide
/-- V-LIFE, `START` while started with a tick pending. -/
theorem test_start : seen (exec .start (at_ (id8 .two .two true) true true 1 200 17 five))
    = some ({ EN := true, IF := false, TICK_CNT := 0, CMP0 := 0, CMP1 := 0 }, Output.empty, 0) := by decide
/-- V-LIFE, `STOP` with a tick pending. -/
theorem test_stop : seen (exec .stop (at_ (id8 .two .two true) true true 1 200 17 five))
    = some ({ EN := false, IF := false, TICK_CNT := 1, CMP0 := 200, CMP1 := 17 }, Output.empty, 0) := by decide
/-- V-RD, `RD 0` at `{1, 1, 2}` answers 0x000B and leaves `IF`. -/
theorem test_rd_status : seen (exec (.rd 0) (at_ (dn244 .four) true true 2 133 0 five))
    = some ({ EN := true, IF := true, TICK_CNT := 2, CMP0 := 133, CMP1 := 0 }, Output.respond 0x000B, 0) := by decide
/-- V-RD, the other indices: `CMP1` is 118 in the record, and reads 0 with `NCH = 1`. -/
theorem test_rd_others :
    (List.map (fun i => (regRead (dn244 .four) { EN := true, IF := true, TICK_CNT := 2, CMP0 := 133, CMP1 := 118 } i).toNat)
      [1, 2, 3, 4, 5, 6, 7, 15]) = [0x85, 0, 0x061C, 0x80, 0x3D, 0xF4, 0, 0] := by decide
/-- V-RD, the largest `CFG`. -/
theorem test_cfg_word_largest : cfgWord { extreme 31 with DECIM := .four, NCH := .two } = 0x1F2C := by decide
/-- V-TICK, normal and after `STOP`. -/
theorem test_tick : seen (exec .tick (at_ (id8 .two .one true) true false 3 200 0 five))
    = some ({ EN := true, IF := true, TICK_CNT := 3, CMP0 := 200, CMP1 := 0 }, Output.empty, 0) := by decide
theorem test_tick_stopped : seen (exec .tick (at_ (id8 .two .one true) false false 1 200 0 five))
    = some ({ EN := false, IF := false, TICK_CNT := 1, CMP0 := 200, CMP1 := 0 }, Output.empty, 0) := by decide
/-- V-SVC, `DECIM = 4` at 3: a boundary, frame `(5)` commits 133. -/
theorem test_service_boundary : seen (exec .service (at_ (id8 .four .one true) true true 3 7 0 five))
    = some ({ EN := true, IF := false, TICK_CNT := 0, CMP0 := 133, CMP1 := 0 },
        { rsp := none, hooks := [], commits := [(.ch0, 133)], pulled := true }, 1) := by decide
/-- V-SVC, `DECIM = 4` at 2, and the guard. -/
theorem test_service_off_boundary : seen (exec .service (at_ (id8 .four .one true) true true 2 7 0 five))
      = some ({ EN := true, IF := false, TICK_CNT := 3, CMP0 := 7, CMP1 := 0 }, Output.empty, 0) ∧
    (match exec .service (at_ (id8 .four .one true) false true 2 7 0 five) with
      | .refused r => r == .noStep
      | .next _ => false
      | .fault _ => false) = true := by decide
/-- V-BA, two lanes with an output stage. -/
theorem test_boundary_two_lanes : seen (exec .service (at_ (id8 .one .two true) true true 0 7 9 ends))
    = some ({ EN := true, IF := false, TICK_CNT := 0, CMP0 := 0, CMP1 := 255 },
        { rsp := none, hooks := [], commits := [(.ch0, 0), (.ch1, 255)], pulled := true }, 1) := by decide
/-- V-BA, two lanes with no output stage. -/
theorem test_boundary_hooks : seen (exec .service (at_ (id8 .one .two false) true true 0 0 0 ends))
    = some ({ EN := true, IF := false, TICK_CNT := 0, CMP0 := 0, CMP1 := 0 },
        { rsp := none, hooks := [(.ch0, 0), (.ch1, 255)], commits := [], pulled := true }, 1) := by decide

/-! ## The scaler (V-SCALE) -/

theorem test_scale_id8 : [-32768, -129, -128, -1, 0, 127, 128, 32767].map
    (fun s : Int => (scaleSat (id8 .one .one true) (BitVec.ofInt 16 s)).toNat) = [0, 0, 0, 127, 128, 255, 255, 255] := by
  decide
theorem test_scale_dn244 : [-127, -1, 1, 100, 127, 128, 1000].map
    (fun s : Int => (scaleSat (dn244 .one) (BitVec.ofInt 16 s)).toNat) = [0, 121, 122, 217, 243, 244, 244] := by decide
theorem test_scale_extreme :
    [(0, 32767), (16, 32767), (31, 32767), (16, -32768), (31, -32768)].map
      (fun p : Nat × Int => (scaleSat (extreme (BitVec.ofNat 5 p.1)) (BitVec.ofInt 16 p.2)).toNat)
    = [65535, 65535, 2, 32766, 0] := by decide

/-! ## Steps, ports, build checks, traces -/

/-- The host's placing of an event: the very next step runs it, from reset too (R25, log entry 5). -/
theorem test_step_from_reset : (seen (step (State.reset.withFetchWord 8 0x30))).map (fun x => x.2.1)
    = some (Output.respond 0) := by decide
theorem test_step_start_from_reset : (seen (step (State.reset.withFetchWord 8 0x10))).map (fun x => x.1.EN)
    = some true := by decide
/-- R12: with `IF = 0` and an event still to come the run is not quiescent, and with `IF = 1` at its end neither. -/
theorem test_not_quiescent : quiescent (pushEvent State.reset 0x10) = false
    ∧ quiescent (at_ (id8 .one .one true) true true 0 7 0 five) = false := by decide
/-- R177: in one cycle a `STOP` wins over a `TICK`, and a byte that is no host command is refused. -/
theorem test_cycle_stop_tick :
    (match cycle { rst := false, cmd := some 0x20, tick := true, service := true }
        (at_ (id8 .one .one true) true true 0 7 0 five) with
      | .next (t, _) => t.block.IF || t.block.EN
      | .fault _ => true
      | .refused _ => true) = false := by decide
/-- R177: `START`, `TICK` and `SERVICE` in one cycle, `DECIM = 1`: the first tick of the new run is a boundary. -/
theorem test_cycle_start_tick_service :
    (match cycle { rst := false, cmd := some 0x10, tick := true, service := true }
        (at_ (id8 .one .one true) false false 0 7 0 five) with
      | .next (t, outs) => some (t.block, t.env.PULLS, outs.length)
      | .fault _ => none
      | .refused _ => none)
    = some ({ EN := true, IF := false, TICK_CNT := 0, CMP0 := 133, CMP1 := 0 }, 1, 3) := by decide
theorem test_cmd_port_refuses_tick : decodeCmd 0x80 = none ∧ decodeCmd 0x3F = some (.rd 15) := by decide
/-- 95 Part 4 and V-ACC. -/
theorem test_ck_rate : ckRate { small with TICK_RATE := 20000, AUDIO_RATE := 10000 } = true
    ∧ ckRate { small with TICK_RATE := 20001, AUDIO_RATE := 10000 } = false
    ∧ ckRate { small with DECIM := 1, TICK_RATE := 0, AUDIO_RATE := 0 } = false := by decide
theorem test_ck_bias : ckBias { small with RANGE := 65536, BIAS := 32768 } = true
    ∧ ckBias { small with RANGE := 65538, BIAS := 32769 } = false ∧ ckBias { small with RANGE := 255, BIAS := 127 } = false
    ∧ ckBias { small with RANGE := 0, BIAS := 0 } = false := by decide
theorem test_ck_acc_doc_pair : accurateAt doc244 20 = true ∧ accurateAt doc244 21 = false
    ∧ accurateAt doc244 255 = false := by decide
theorem test_ck_period : ckPeriod { small with CLOCK_HZ := 8000000, TICK_RATE := 16000, TOP := 250, SLOPE := 2 } = true
    ∧ ckPeriod { small with CLOCK_HZ := 8000000, TICK_RATE := 32000, TOP := 255 } = false := by decide
/-- R151 at its edge, R153 with and without an output stage. -/
theorem test_ck_top_pin : ckTop { small with TOP := 1 } = true ∧ ckTop { small with TOP := 0 } = false
    ∧ ckPin (fun _ => false) small = false ∧ ckPin (fun _ => false) { small with HAS_OUT := 0 } = true
    ∧ ckPin anyPin small = true := by decide
theorem test_checked_dn244 : failedChecks anyPin dn244Build = [] := by decide +kernel
theorem test_rejected_doc244 : failedChecks anyPin doc244 = [.ckAcc, .ckTop] := by decide +kernel
/-- R67: names and hexadecimal indices, comments, an alias; and a two-sample frame. -/
theorem test_trace_lines :
    ((readTrace small "rd CFG ; x\nSVC\n RD 0x6\nTS".toList).map (·.events))
      = some [.rd 3, .service, .rd 6, .tick, .service] := by decide +kernel
theorem test_trace_frames : readFrame "(-128,127)".toList = some (2, ends) ∧ readFrame "(40000)".toList = none := by
  decide +kernel

/-! ## Witnesses: states and operands that meet the hypotheses of the statements -/

/-- At a boundary, with an output stage and without: `DECIM = 4` at 3. -/
def boundaryAt (out : Bool) : State := at_ (id8 .four .two out) true true 3 7 9 ends
/-- Off a boundary: `DECIM = 4` at 2. -/
def offBoundary : State := at_ (id8 .four .one true) true true 2 7 0 five

theorem witness_ServiceClearsPendingAlways : TickPending (boundaryAt true) ∧ TickPending offBoundary := by decide
theorem witness_ServiceCountsToDecim : TickPending (at_ (id8 .two .one true) true true 3 7 0 five)
    ∧ AtBoundary (at_ (id8 .two .one true) true true 3 7 0 five) ∧ TickPending offBoundary ∧ ¬ AtBoundary offBoundary := by
  decide
theorem witness_OffBoundaryServiceHasNoSideEffect : TickPending offBoundary ∧ ¬ AtBoundary offBoundary := by decide
theorem witness_BoundaryActionCommitsOrHooks : TickPending (boundaryAt true) ∧ AtBoundary (boundaryAt true)
    ∧ (boundaryAt true).cfg.HAS_OUT = true ∧ TickPending (boundaryAt false) ∧ AtBoundary (boundaryAt false)
    ∧ (boundaryAt false).cfg.HAS_OUT = false := by decide
theorem witness_CommitsShowOnThePorts : TickPending (boundaryAt true) ∧ AtBoundary (boundaryAt true)
    ∧ (boundaryAt true).cfg.HAS_OUT = true ∧ TickPending (boundaryAt false) ∧ AtBoundary (boundaryAt false)
    ∧ (boundaryAt false).cfg.HAS_OUT = false := by decide
theorem witness_LaneDependsOnItsOwnSample :
    let s := boundaryAt true
    let s' := at_ s.cfg true true 3 0 0 { ends with ch0 := 5 }
    s'.cfg = s.cfg ∧ Channel.ch1 ∈ s.cfg.channels ∧ s.cfg.HAS_OUT = true ∧ TickPending s ∧ TickPending s'
      ∧ AtBoundary s ∧ AtBoundary s'
      ∧ laneSample (s.env.frameAt s.env.PULLS) .ch1 = laneSample (s'.env.frameAt s'.env.PULLS) .ch1 := by decide
theorem witness_SecondTickIsMerged : (boundaryAt true).block.EN = true ∧ (boundaryAt true).block.IF = true := by decide
theorem witness_RegReadIsTheArithmeticMap : 7 ≤ (7 : BitVec 4).toNat ∧ 7 ≤ (15 : BitVec 4).toNat := by decide
theorem witness_ScaleSatLaws :
    (BitVec.ofInt 16 (-32768) : Sample).toInt ≤ (32767 : Sample).toInt
      ∧ (BitVec.ofInt 16 (-128) : Sample).toInt ≤ -((id8 .one .one true).BIAS.toNat : Int)
      ∧ Config.MULT { extreme 0 with MULT := 0 } = 0 ∧ Config.TOP { extreme 0 with TOP := 0 } = 0 := by decide
theorem witness_IdentityScalerOnlyBiasesAndClamps :
    (id8 .one .one true).MULT = 1 ∧ (id8 .one .one true).SHIFT = 0 := by decide
theorem witness_DecodeEncodeRoundTrip : decode 0x3F = some (.rd 15) := by decide
theorem witness_StepRunsTheDecodedEvent :
    (pushEvent offBoundary 0x90).events = 0x90 :: [] ∧ decode 0x90 = some .service := by decide
theorem witness_ReservedBytesAreThoseListed : (pushEvent offBoundary 0x40).events = 0x40 :: [] ∧ decode 0x40 = none
    ∧ (pushEvent offBoundary 0x9F).events = 0x9F :: [] ∧ decode 0x9F = none := by decide
theorem witness_ReservedAndUnguardedAreNoSteps :
    (pushEvent offBoundary 0x40).events = 0x40 :: [] ∧ decode 0x40 = none ∧
    (pushEvent (State.powerOn (id8 .one .one true)) 0x90).events = 0x90 :: [] ∧ decode 0x90 = some .service
      ∧ ¬ TickPending (pushEvent (State.powerOn (id8 .one .one true)) 0x90) := by decide
theorem witness_ExhaustedListEndsTheRun : offBoundary.events = [] := by decide
theorem witness_RunWithReservedByteHasNoEnd :
    (pushEvent (pushEvent offBoundary 0x40) 0x80).events = [0x80] ++ 0x40 :: [] ∧ decode 0x40 = none
      ∧ ([0x80] : List Byte).length < 2 := by decide
theorem witness_OnlyServiceCanBeDisabled : Instr.tick ≠ .service ∧ PendingOnlyWhileEnabled offBoundary
    ∧ PendingOnlyWhileEnabled State.reset ∧ State.reset.events.length < 1 := by decide
theorem witness_OnlyBoundaryServicePulls : ∃ t u, exec .service (boundaryAt false) = .next t ∧ t.out.pulled = true
    ∧ exec .service offBoundary = .next u ∧ u.out.pulled = false := ⟨_, _, rfl, rfl, rfl, rfl⟩
theorem witness_CounterAndComparatorsHaveOneOwner : ∃ t u, exec .service offBoundary = .next t
    ∧ Instr.service ≠ .reset ∧ Instr.service ≠ .start ∧ t.block.TICK_CNT ≠ offBoundary.block.TICK_CNT
    ∧ exec .service (boundaryAt true) = .next u ∧ u.block.CMP .ch0 ≠ (boundaryAt true).block.CMP .ch0 :=
  ⟨_, _, rfl, by decide, by decide, by decide, rfl, by decide⟩
theorem witness_PendingFlagSetAndCleared : ∃ t u v, exec .tick (at_ (id8 .one .one true) true false 0 0 0 five) = .next t
    ∧ exec .stop offBoundary = .next u ∧ exec (.rd 0) offBoundary = .next v := ⟨_, _, _, rfl, rfl, rfl⟩
theorem witness_EnableSetAndCleared : ∃ t u v, exec .start State.reset = .next t ∧ exec .stop offBoundary = .next u
    ∧ exec .tick offBoundary = .next v ∧ State.reset.block.EN = false := ⟨_, _, _, rfl, rfl, rfl, rfl⟩
theorem witness_CommittedValuesAreHeldAndWithinTop : ∃ t u, exec .service (boundaryAt true) = .next t
    ∧ (Channel.ch1, 255) ∈ t.out.commits ∧ exec .service (boundaryAt false) = .next u ∧ (Channel.ch1, 255) ∈ u.out.hooks :=
  ⟨_, _, rfl, by decide, rfl, by decide⟩
theorem witness_StepKeepsConfiguration : ∃ t, step (pushEvent (boundaryAt true) 0x90) = .next t := ⟨_, rfl⟩
theorem witness_StopStartIsStart : (at_ (id8 .one .one true) true true 0 7 0 five).cfg
    = (at_ (id8 .one .one true) false false 3 9 0 ends).cfg := by decide
theorem witness_TickThenService : (at_ (id8 .one .one true) true false 0 7 0 five).block.EN = true
    ∧ (at_ (id8 .one .one true) true false 0 7 0 five).block.IF = false ∧ State.reset.block.EN = false := by decide
theorem witness_StartGivesTheStartedState : 0 ≤ (dn244 .four).DECIM.toNat ∧ 4 ≤ (dn244 .four).DECIM.toNat := by decide
theorem witness_RateInvariantAfterStart : ∃ s, exec .start (at_ (dn244 .four) false false 2 9 0 five) = .next s ∧
    ∃ k, 1 ≤ k ∧ k ≤ 4 ∧ s.cfg.HAS_OUT = true ∧ Channel.ch0 ∈ s.cfg.channels := ⟨_, rfl, 4, by decide⟩
/-- A run over a boundary: `DECIM = 4` at 3, a boundary `SERVICE`, then a tick counted to 1. -/
theorem witness_EveryServiceIsAccountedFor : ∃ t outs,
    (∀ i ∈ [Instr.service, .nop, .tick, .service], i ≠ .reset ∧ i ≠ .start)
    ∧ CounterBelowDecim (boundaryAt true)
    ∧ runEvents [.service, .nop, .tick, .service] (boundaryAt true) = .next (t, outs)
    ∧ t.env.PULLS = 1 ∧ t.block.TICK_CNT = 1 :=
  ⟨_, _, by decide, by decide, rfl, rfl, rfl⟩
theorem witness_AlternationFlagToggles :
    let s (d : Decim) := at_ (id8 d .one true) true true 0 7 0 five
    TickPending (s .two) ∧ CounterBelowDecim (s .two) ∧ (s .two).cfg.DECIM = .two ∧
    TickPending (s .one) ∧ CounterBelowDecim (s .one) ∧ (s .one).cfg.DECIM = .one := by decide
theorem witness_PromptRunLosesNoTick :
    promptService [.tick, .service, .tick] (at_ (id8 .two .one true) true false 0 7 0 five) = true
      ∧ promptService [.tick, .tick] (at_ (id8 .two .one true) true false 0 7 0 five) = false := by decide
theorem witness_StepKeepsInvariants : ∃ t, Inv (pushEvent (boundaryAt true) 0x90)
    ∧ step (pushEvent (boundaryAt true) 0x90) = .next t := ⟨_, by decide, rfl⟩
theorem witness_InvariantsAfterReset : ∃ t outs,
    runEvents [.reset, .start, .tick, .service] (at_ (id8 .one .one false) true true 3 7 9 five) = .next (t, outs)
      ∧ t.block.EN = true ∧ t.cfg.HAS_OUT = false := ⟨_, _, rfl, rfl, rfl⟩
theorem witness_CmdPortTakesHostCommandsOnly :
    InPulses.cmd { rst := false, cmd := some 0x80, tick := true, service := false } = some 0x80
      ∧ decodeCmd 0x80 = none := by decide
theorem witness_SameCycleOrder :
    (∀ i ∈ some (Instr.rd 15), i = .nop ∨ i = .start ∨ i = .stop ∨ ∃ idx, i = .rd idx)
    ∧ (∀ i ∈ some Instr.start, i = .nop ∨ i = .start ∨ i = .stop ∨ ∃ idx, i = .rd idx)
    ∧ (∃ t outs, runEvents [.start, .tick] offBoundary = .next (t, outs) ∧ TickPending t)
    ∧ (∃ t outs, runEvents [.rd 15] State.reset = .next (t, outs) ∧ ¬ TickPending t)
    ∧ ∃ r t outs, exec .reset offBoundary = .next r
      ∧ cycle { rst := false, cmd := some 0x10, tick := true, service := true } r = .next (t, outs) :=
  ⟨by simp, by simp, ⟨_, _, rfl, by decide⟩, ⟨_, _, rfl, by decide⟩, _, _, _, rfl, rfl⟩
theorem witness_ConfigWFDecidesTheMachine : ∃ cfg, toConfig small = some cfg := ⟨_, rfl⟩
theorem witness_OnlyCheckedConfigurationsDeploy : configChecked anyPin small = true
    ∧ configChecked anyPin { small with TICK_RATE := 5 } = false
    ∧ Check.passes anyPin { small with TICK_RATE := 5 } .ckRate = false := by decide
theorem witness_OutputPulsesOfEveryStep : ∃ t u v, exec (.rd 15) offBoundary = .next t
    ∧ exec .service (boundaryAt true) = .next u ∧ exec .service (boundaryAt false) = .next v
    ∧ AtBoundary (boundaryAt false) ∧ (boundaryAt false).cfg.HAS_OUT = false := ⟨_, _, _, rfl, rfl, rfl, by decide⟩
theorem witness_QuiescentIsOverWithNothingPending :
    let s := { offBoundary with events := [0x90] }
    (∃ t, Host.Core.run Sys2Proof.core s.events.length s = .next t) ∧
    PendingOnlyWhileEnabled offBoundary ∧ runIsOver offBoundary = true ∧ serviceOutstanding offBoundary = true ∧
    PendingOnlyWhileEnabled State.reset ∧ runIsOver State.reset = true ∧ quiescent State.reset = true :=
  ⟨⟨_, rfl⟩, by decide⟩
theorem witness_ExportedSignals : Channel.ch1 ∈ (boundaryAt true).cfg.channels ∧ Channel.ch0 ∈ offBoundary.cfg.channels := by
  decide
theorem witness_NominalSamplesFitAndBiasIntoRange : ∃ cfg, ckBias small = true ∧ toConfig small = some cfg
    ∧ -(small.BIAS : Int) ≤ (BitVec.ofInt 16 (-1) : Sample).toInt
    ∧ (BitVec.ofInt 16 (-1) : Sample).toInt ≤ (small.RANGE : Int) - 1 - small.BIAS
    ∧ -(small.BIAS : Int) ≤ (0 : Sample).toInt ∧ (0 : Sample).toInt ≤ (small.RANGE : Int) - 1 - small.BIAS :=
  ⟨_, by decide, rfl, by decide⟩
theorem witness_DeployedScalerIsAccurate : ∃ cfg, configChecked anyPin small = true ∧ toConfig small = some cfg
    ∧ -(small.BIAS : Int) ≤ (0 : Sample).toInt ∧ (0 : Sample).toInt ≤ (small.RANGE : Int) - 1 - small.BIAS :=
  ⟨_, by decide, rfl, by decide⟩
theorem witness_DeployedBlockRunsAtTheAudioRate : ∃ cfg s, configChecked anyPin small = true
    ∧ toConfig small = some (State.powerOn cfg).cfg ∧ exec .start (State.powerOn cfg) = .next s :=
  ⟨_, _, by decide, rfl, rfl⟩

end Sys2Proof.Tests
end

/-! The statements of 00_scope.md: which records become a machine (R6), and when a run is over (R12, R209). -/

namespace Sys2Proof.Machine

/-! ## From a raw record to the machine's parameters (R6) -/

/-- `ConfigWF` as the rule writes it. -/
theorem buildConfig_wf_iff (c : BuildConfig) :
    c.wf = true ↔
      (c.DECIM = 1 ∨ c.DECIM = 2 ∨ c.DECIM = 4) ∧ (c.NCH = 1 ∨ c.NCH = 2) ∧ (c.HAS_OUT = 0 ∨ c.HAS_OUT = 1) ∧
      c.BIAS < 2 ^ 16 ∧ c.MULT < 2 ^ 16 ∧ c.TOP < 2 ^ 16 ∧ c.SHIFT < 32 := by
  simp [BuildConfig.wf, and_assoc, or_assoc]

/-- A number is a legal decimation factor exactly as the number of that factor. -/
theorem decimOf_eq_some (n : Nat) (d : Decim) : decimOf n = some d ↔ d.toNat = n := by
  constructor
  · intro h
    unfold decimOf at h
    split at h <;> cases h <;> rfl
  · rintro rfl
    cases d <;> rfl

/-- A number is a legal channel count exactly as the number of that count. -/
theorem channelCountOf_eq_some (n : Nat) (k : ChannelCount) : channelCountOf n = some k ↔ k.toNat = n := by
  constructor
  · intro h
    unfold channelCountOf at h
    split at h <;> cases h <;> rfl
  · rintro rfl
    cases k <;> rfl

/-- The machine's parameters are the record's numbers. -/
structure HasNumbersOf (cfg : Config) (c : BuildConfig) : Prop where
  DECIM : cfg.DECIM.toNat = c.DECIM
  NCH : cfg.NCH.toNat = c.NCH
  HAS_OUT : cfg.HAS_OUT.toNat = c.HAS_OUT
  BIAS : cfg.BIAS.toNat = c.BIAS
  MULT : cfg.MULT.toNat = c.MULT
  SHIFT : cfg.SHIFT.toNat = c.SHIFT
  TOP : cfg.TOP.toNat = c.TOP

/-- A record whose numbers are a machine's parameters is well formed: the parameters' types have no other value. -/
theorem HasNumbersOf.wf {cfg : Config} {c : BuildConfig} (h : HasNumbersOf cfg c) : c.wf = true := by
  rw [buildConfig_wf_iff, ← h.DECIM, ← h.NCH, ← h.HAS_OUT, ← h.BIAS, ← h.MULT, ← h.SHIFT, ← h.TOP]
  refine ⟨?_, ?_, ?_, cfg.BIAS.isLt, cfg.MULT.isLt, cfg.TOP.isLt, cfg.SHIFT.isLt⟩
  · cases cfg.DECIM <;> decide
  · cases cfg.NCH <;> decide
  · cases cfg.HAS_OUT <;> decide

/-- A well-formed record becomes a machine's configuration. -/
theorem exists_toConfig_of_wf {c : BuildConfig} (hwf : c.wf = true) : ∃ cfg, toConfig c = some cfg := by
  obtain ⟨hd, hn, -⟩ := (buildConfig_wf_iff c).1 hwf
  obtain ⟨d, hd⟩ : ∃ d, decimOf c.DECIM = some d := by
    obtain h | h | h := hd <;> rw [h] <;> exact ⟨_, rfl⟩
  obtain ⟨n, hn⟩ : ∃ n, channelCountOf c.NCH = some n := by
    obtain h | h := hn <;> rw [h] <;> exact ⟨_, rfl⟩
  simp [toConfig, hd, hn, hwf]

/-- The configuration a record becomes has the record's numbers: no field is truncated. -/
theorem hasNumbersOf_of_toConfig {c : BuildConfig} {cfg : Config} (h : toConfig c = some cfg) :
    HasNumbersOf cfg c := by
  unfold toConfig at h
  split at h
  next d n hd hn =>
    split at h
    next hwf =>
      obtain ⟨-, -, hout, hbias, hmult, htop, hshift⟩ := (buildConfig_wf_iff c).1 hwf
      obtain rfl := Option.some.inj h
      exact {
        DECIM := (decimOf_eq_some _ _).1 hd
        NCH := (channelCountOf_eq_some _ _).1 hn
        HAS_OUT := by obtain h | h := hout <;> simp [h]
        BIAS := (BitVec.toNat_ofNat ..).trans (Nat.mod_eq_of_lt hbias)
        MULT := (BitVec.toNat_ofNat ..).trans (Nat.mod_eq_of_lt hmult)
        SHIFT := (BitVec.toNat_ofNat ..).trans (Nat.mod_eq_of_lt hshift)
        TOP := (BitVec.toNat_ofNat ..).trans (Nat.mod_eq_of_lt htop) }
    next => cases h
  next => cases h

/-- A record becomes a machine's configuration exactly if it is well formed. -/
theorem exists_toConfig_iff_wf (c : BuildConfig) : (∃ cfg, toConfig c = some cfg) ↔ c.wf = true :=
  ⟨fun ⟨_, h⟩ => (hasNumbersOf_of_toConfig h).wf, exists_toConfig_of_wf⟩

/-- Settles O48: the legal values stand in the types of `Config`, and in these ranges no number is truncated. -/
theorem configWFDecidesTheMachine : Obligations.ConfigWFDecidesTheMachine := by
  intro c
  refine ⟨(exists_toConfig_iff_wf c).trans (buildConfig_wf_iff c), fun cfg h => ?_⟩
  obtain ⟨hdecim, hnch, hout, hbias, hmult, hshift, htop⟩ := hasNumbersOf_of_toConfig h
  exact ⟨hdecim, hnch, hout, hbias, hmult, hshift, htop⟩

/-! ## The end of a run (R12, R209) -/

/-- The service guard decides whether `SERVICE` answers a next state. -/
theorem exists_exec_service_iff (s : State) : (∃ t, exec .service s = .next t) ↔ TickPending s := by
  constructor
  · rintro ⟨t, h⟩
    obtain ⟨hEN, hIF, -⟩ := exec_service_cases h
    exact ⟨hEN, hIF⟩
  · rintro ⟨hEN, hIF⟩
    exact ⟨_, exec_service_of_guard s hEN hIF⟩

/-- The one refusal an operation can answer: `SERVICE` without its guard. -/
theorem exec_refused_cases {i : Instr} {s : State} {r : Refusal} (h : exec i s = .refused r) :
    i = .service ∧ r = .noStep := by
  cases i with
  | service =>
    by_cases hg : s.block.EN = true ∧ s.block.IF = true
    · rw [exec_service_of_guard s hg.1 hg.2] at h
      cases h
    · rw [exec_service_of_not_guard s hg] at h
      cases h
      exact ⟨rfl, rfl⟩
  | nop | start | stop | rd _ | tick | reset => cases h

/-- The handler's body takes no event. -/
@[simp] theorem countTick_events (s : State) (b : Block) : (countTick s b).events = s.events := by
  obtain ⟨-, h⟩ | ⟨-, h⟩ := countTick_cases s b <;> simp [h]

/-- No operation changes the events to come. -/
theorem exec_events {i : Instr} {s t : State} (h : exec i s = .next t) : t.events = s.events := by
  cases i with
  | service =>
    obtain ⟨-, -, rfl⟩ := exec_service_cases h
    exact countTick_events s _
  | nop | start | stop | rd _ | tick | reset =>
    cases h
    rfl

/-- A step takes exactly the first event of the list. -/
theorem step_events {s t : State} (h : step s = .next t) : ∃ b, s.events = b :: t.events := by
  obtain ⟨b, rest, i, hs, -, hexec⟩ := step_cases h
  exact ⟨b, by rw [hs, exec_events hexec]⟩

/-- A step with an event left is the run of that event's byte. -/
theorem step_of_cons {s : State} {b : Byte} {rest : List Byte} (h : s.events = b :: rest) :
    step s = runByte b { s with events := rest } := by
  simp [step, nextEvent, h]

/-- One event never ends a run with `runOver`. -/
theorem runByte_ne_runOver (b : Byte) (s : State) : runByte b s ≠ .refused .runOver := by
  intro h
  unfold runByte at h
  split at h
  next => cases h
  next i _ => exact absurd (exec_refused_cases h).2 (by decide)

/-- `step` answers `runOver` exactly with no event left. -/
theorem step_eq_runOver_iff (s : State) : step s = .refused .runOver ↔ s.events = [] := by
  cases hs : s.events with
  | nil => simp [step, nextEvent, hs]
  | cons b rest => simp [step_of_cons hs, runByte_ne_runOver]

/-- A run of `k` steps that ends in a next state has taken exactly the first `k` events. -/
theorem core_run_events {k : Nat} {s t : State} (h : Host.Core.run Sys2Proof.core k s = .next t) :
    t.events = s.events.drop k := by
  induction k generalizing s with
  | zero =>
    cases h
    rfl
  | succ k ih =>
    obtain ⟨u, hstep, hrun⟩ := core_run_succ_cases h
    obtain ⟨b, hs⟩ := step_events hstep
    rw [ih hrun, hs, List.drop_succ_cons]

/-- As many steps as there are events end with the run over. -/
theorem runIsOver_of_core_run {s t : State} (h : Host.Core.run Sys2Proof.core s.events.length s = .next t) :
    runIsOver t = true := by
  rw [runIsOver_iff, core_run_events h, List.drop_length]

/-- A run that is over is quiescent exactly with nothing pending. -/
theorem quiescent_iff_of_over {s : State} (h : runIsOver s = true) : quiescent s = true ↔ s.block.IF = false := by
  rw [quiescent_iff, ← runIsOver_iff]
  exact and_iff_right h

/-- The two ends of a run exclude each other: they differ in `IF`. -/
theorem not_quiescent_and_serviceOutstanding (s : State) :
    ¬ (quiescent s = true ∧ serviceOutstanding s = true) := by
  rw [quiescent_iff, serviceOutstanding_iff]
  rintro ⟨⟨-, hclear⟩, -, -, hset⟩
  exact absurd (hclear.symm.trans hset) (by decide)

/-- With (I1) a run that is over has one of the two ends. -/
theorem quiescent_or_serviceOutstanding {s : State} (hI1 : PendingOnlyWhileEnabled s) (h : runIsOver s = true) :
    quiescent s = true ∨ serviceOutstanding s = true := by
  rw [quiescent_iff_of_over h, serviceOutstanding_iff, ← runIsOver_iff]
  cases hIF : s.block.IF with
  | false => exact .inl rfl
  | true => exact .inr ⟨h, hI1 hIF, rfl⟩

/-- Settles O56: an event takes itself and nothing else from the list, and only the exhausted list answers `runOver`. -/
theorem quiescentIsOverWithNothingPending : Obligations.QuiescentIsOverWithNothingPending := by
  refine ⟨fun s => ⟨runIsOver_iff s, ?_, quiescent_iff s, ?_, not_quiescent_and_serviceOutstanding s⟩,
    fun s hI1 h => quiescent_or_serviceOutstanding hI1 h, fun s t h => ?_⟩
  · rw [runIsOver_iff, step_eq_runOver_iff]
  · rw [serviceOutstanding_iff, exists_exec_service_iff]
  · exact ⟨runIsOver_of_core_run h, quiescent_iff_of_over (runIsOver_of_core_run h)⟩

end Sys2Proof.Machine

/-! The statements of 10_state.md: the fields of the state, who writes them, and the invariants of R32. -/

namespace Sys2Proof.Machine

/-! ## What the shared operations leave in each field -/

/-- The lanes counted. -/
theorem channels_length (cfg : Config) : cfg.channels.length = cfg.NCH.toNat := by
  cases h : cfg.NCH <;> simp [Config.channels, h, ChannelCount.toNat]

/-- A lane stands in the list of lanes at its own number. -/
theorem channels_getElem?_toNat {cfg : Config} {ch : Channel} (h : ch ∈ cfg.channels) :
    cfg.channels[ch.toNat]? = some ch := by
  obtain rfl | ⟨rfl, hn⟩ := (mem_channels cfg ch).1 h
  · cases hn : cfg.NCH <;> simp [Config.channels, hn, Channel.toNat]
  · simp [Config.channels, hn, Channel.toNat]

/-- The scaler never answers a value above `TOP` (R105). -/
theorem scaleSat_le_TOP (cfg : Config) (x : Sample) : (scaleSat cfg x).toNat ≤ cfg.TOP.toNat := by
  rw [scaleSat, highClamp_toNat]
  exact Nat.min_le_right _ _

/-- A comparator after the lanes were written: its lane's scaled sample if there is an output stage, else as it was. -/
theorem writeLanes_CMP (cfg : Config) (f : Frame) (b : Block) (ch : Channel) :
    (writeLanes cfg f b).1.CMP ch =
      if cfg.HAS_OUT = true ∧ ch ∈ cfg.channels then scaleSat cfg (laneSample f ch) else b.CMP ch := by
  cases h : cfg.HAS_OUT with
  | true => simp [(writeLanes_of_out cfg f b h).2]
  | false => simp [writeLanes_of_no_out cfg f b h]

/-- The handler's body never touches the configuration. -/
@[simp] theorem countTick_cfg (s : State) (b : Block) : (countTick s b).cfg = s.cfg := by
  obtain ⟨-, h⟩ | ⟨-, h⟩ := countTick_cases s b <;> simp [h]

/-- The handler's body leaves the pending flag as it found it (R82). -/
@[simp] theorem countTick_IF (s : State) (b : Block) : (countTick s b).block.IF = b.IF := by
  obtain ⟨-, h⟩ | ⟨-, h⟩ := countTick_cases s b <;> simp [h, writeLanes_flags]

/-- The counter after a serviced tick, as a number: 0 at a boundary, else one more without wrap (R83). -/
theorem countTick_TICK_CNT_toNat (s : State) (b : Block) :
    (countTick s b).block.TICK_CNT.toNat =
      if s.cfg.DECIM.toNat ≤ b.TICK_CNT.toNat + 1 then 0 else b.TICK_CNT.toNat + 1 := by
  obtain ⟨hb, h⟩ | ⟨hb, h⟩ := countTick_cases s b
  · simp [h, writeLanes_flags, (isBoundary_iff s.cfg b).1 hb]
  · have hlt : nextCount b < 4 := nextCount_lt s.cfg b hb
    rw [if_neg (by simpa [hb] using isBoundary_iff s.cfg b), h]
    exact (BitVec.toNat_ofNat ..).trans (Nat.mod_eq_of_lt hlt)

/-- A comparator after a serviced tick: written only at a boundary, with an output stage (R83, R120). -/
theorem countTick_CMP (s : State) (b : Block) (ch : Channel) :
    (countTick s b).block.CMP ch =
      if s.cfg.DECIM.toNat ≤ b.TICK_CNT.toNat + 1 ∧ s.cfg.HAS_OUT = true ∧ ch ∈ s.cfg.channels then
        scaleSat s.cfg (laneSample s.env.nextFrame ch)
      else b.CMP ch := by
  obtain ⟨hb, h⟩ | ⟨hb, h⟩ := countTick_cases s b
  · simp [h, writeLanes_CMP, (isBoundary_iff s.cfg b).1 hb]
  · rw [if_neg fun hc => by simp [(isBoundary_iff s.cfg b).2 hc.1] at hb, h]
    simp

/-- `RESET` and `START` leave every comparator there is at 0. -/
theorem initialise_CMP_eq_zero (cfg : Config) (en : Bool) (b : Block) :
    ∀ ch ∈ cfg.channels, (initialise cfg en b).CMP ch = 0 := fun ch hch => by
  rw [initialise_CMP, if_pos hch]

/-- `RESET` and `START` clear a comparator, or leave it where the block has no such lane. -/
theorem initialise_CMP_cases (cfg : Config) (en : Bool) (b : Block) (ch : Channel) :
    (initialise cfg en b).CMP ch = b.CMP ch ∨ (initialise cfg en b).CMP ch = 0 := by
  rw [initialise_CMP]
  exact (ite_eq_or_eq ..).symm

/-! ## Who writes each field (R35) -/

/-- No operation changes the configuration (R206). -/
theorem exec_cfg {i : Instr} {s t : State} (h : exec i s = .next t) : t.cfg = s.cfg := by
  cases i with
  | service =>
    obtain ⟨-, -, rfl⟩ := exec_service_cases h
    exact countTick_cfg s _
  | nop | start | stop | rd _ | tick | reset =>
    cases h
    rfl

/-- What an operation can do to the counter: keep it, clear it, or count a serviced tick. -/
theorem exec_TICK_CNT_cases {i : Instr} {s t : State} (h : exec i s = .next t) :
    t.block.TICK_CNT = s.block.TICK_CNT ∨
    (i = .reset ∨ i = .start) ∧ t.block.TICK_CNT = 0 ∨
    i = .service ∧ t.block.TICK_CNT.toNat = if AtBoundary s then 0 else s.block.TICK_CNT.toNat + 1 := by
  cases i with
  | nop | rd _ | stop =>
    cases h
    exact .inl rfl
  | tick =>
    cases h
    exact .inl (raiseTick_TICK_CNT s.block)
  | start =>
    cases h
    exact .inr (.inl ⟨.inr rfl, initialise_TICK_CNT ..⟩)
  | reset =>
    cases h
    exact .inr (.inl ⟨.inl rfl, initialise_TICK_CNT ..⟩)
  | service =>
    obtain ⟨-, -, rfl⟩ := exec_service_cases h
    exact .inr (.inr ⟨rfl, countTick_TICK_CNT_toNat s _⟩)

/-- What an operation can do to a comparator: keep it, clear it, or commit its lane's scaled sample. -/
theorem exec_CMP_cases {i : Instr} {s t : State} (h : exec i s = .next t) (ch : Channel) :
    t.block.CMP ch = s.block.CMP ch ∨
    (i = .reset ∨ i = .start) ∧ t.block.CMP ch = 0 ∨
    (i = .service ∧ AtBoundary s ∧ s.cfg.HAS_OUT = true) ∧
      t.block.CMP ch = scaleSat s.cfg (laneSample s.env.nextFrame ch) := by
  cases i with
  | nop | rd _ =>
    cases h
    exact .inl rfl
  | stop =>
    cases h
    simp
  | tick =>
    cases h
    exact .inl (raiseTick_CMP s.block ch)
  | start =>
    cases h
    exact (initialise_CMP_cases ..).imp_right fun h0 => .inl ⟨.inr rfl, h0⟩
  | reset =>
    cases h
    exact (initialise_CMP_cases ..).imp_right fun h0 => .inl ⟨.inl rfl, h0⟩
  | service =>
    obtain ⟨-, -, rfl⟩ := exec_service_cases h
    rw [countTick_CMP]
    split
    next hw => exact .inr (.inr ⟨⟨rfl, hw.1, hw.2.1⟩, rfl⟩)
    next => exact .inl (Block.setIF_CMP ..)

/-- Settles O31: of the ways an operation can change the counter or a comparator only `SERVICE` is left. -/
theorem counterAndComparatorsHaveOneOwner : Obligations.CounterAndComparatorsHaveOneOwner := by
  intro i s t h hreset hstart
  have hclear : ¬ (i = .reset ∨ i = .start) := not_or.2 ⟨hreset, hstart⟩
  refine ⟨fun hne => ?_, fun ch hne => ?_⟩
  · obtain hkept | ⟨hi, -⟩ | ⟨hi, -⟩ := exec_TICK_CNT_cases h
    · exact absurd hkept hne
    · exact absurd hi hclear
    · exact hi
  · obtain hkept | ⟨hi, -⟩ | ⟨hi, -⟩ := exec_CMP_cases h ch
    · exact absurd hkept hne
    · exact absurd hi hclear
    · exact hi

/-! ## The invariants (R32) -/

/-- (I1) is kept: a tick becomes pending only with `EN = 1`, and what clears `EN` clears `IF`. -/
theorem exec_keeps_pendingOnlyWhileEnabled {i : Instr} {s t : State} (hs : PendingOnlyWhileEnabled s)
    (h : exec i s = .next t) : PendingOnlyWhileEnabled t := by
  cases i with
  | nop | rd _ =>
    cases h
    exact hs
  | start | stop | reset =>
    cases h
    simp [PendingOnlyWhileEnabled]
  | tick =>
    cases h
    simpa [PendingOnlyWhileEnabled, or_imp] using hs
  | service =>
    obtain ⟨-, -, rfl⟩ := exec_service_cases h
    simp [PendingOnlyWhileEnabled]

/-- (I2) is kept: off a boundary the next count is still below `DECIM`. -/
theorem exec_keeps_counterBelowDecim {i : Instr} {s t : State} (hs : CounterBelowDecim s)
    (h : exec i s = .next t) : CounterBelowDecim t := by
  have hpos : 0 < s.cfg.DECIM.toNat := Nat.zero_lt_of_lt hs
  rw [CounterBelowDecim, exec_cfg h]
  obtain hkept | ⟨-, h0⟩ | ⟨-, hcount⟩ := exec_TICK_CNT_cases h
  · exact hkept ▸ hs
  · exact h0 ▸ hpos
  · rw [hcount]
    split
    next => exact hpos
    next hoff => exact Nat.lt_of_not_le hoff

/-- (I3) is kept: a comparator is written with 0 or with a scaled sample. -/
theorem exec_keeps_commitsWithinTop {i : Instr} {s t : State} (hs : CommitsWithinTop s)
    (h : exec i s = .next t) : CommitsWithinTop t := by
  rw [CommitsWithinTop, exec_cfg h]
  intro ch hch
  obtain hkept | ⟨-, h0⟩ | ⟨-, hcommit⟩ := exec_CMP_cases h ch
  · exact hkept ▸ hs ch hch
  · exact h0 ▸ Nat.zero_le _
  · exact hcommit ▸ scaleSat_le_TOP ..

/-- (I4) is kept: without an output stage a comparator is written with 0 only. -/
theorem exec_keeps_silentWithoutOutput {i : Instr} {s t : State} (hs : SilentWithoutOutput s)
    (h : exec i s = .next t) : SilentWithoutOutput t := by
  rw [SilentWithoutOutput, exec_cfg h]
  intro hno ch hch
  obtain hkept | ⟨-, h0⟩ | ⟨⟨-, -, hout⟩, -⟩ := exec_CMP_cases h ch
  · exact hkept.trans (hs hno ch hch)
  · exact h0
  · exact absurd (hno.symm.trans hout) (by decide)

/-- Every operation keeps the invariants. -/
theorem exec_keeps_inv {i : Instr} {s t : State} (hs : Inv s) (h : exec i s = .next t) : Inv t := by
  obtain ⟨hpend, hcount, htop, hsilent⟩ := hs
  exact ⟨exec_keeps_pendingOnlyWhileEnabled hpend h, exec_keeps_counterBelowDecim hcount h,
    exec_keeps_commitsWithinTop htop h, exec_keeps_silentWithoutOutput hsilent h⟩

/-- Settles O43: a step is an operation at the state with the rest of the events, which no invariant reads. -/
theorem stepKeepsInvariants : Obligations.StepKeepsInvariants := by
  intro s t hs h
  obtain ⟨-, rest, i, -, -, hexec⟩ := step_cases h
  have hrest : Inv { s with events := rest } := hs
  exact exec_keeps_inv hrest hexec

/-- A block with nothing pending, the counter at 0 and its comparators at 0 has the invariants. -/
theorem inv_of_cleared {s : State} (hIF : s.block.IF = false) (hcount : s.block.TICK_CNT = 0)
    (hcmp : ∀ ch ∈ s.cfg.channels, s.block.CMP ch = 0) : Inv s := by
  refine ⟨by simp [PendingOnlyWhileEnabled, hIF], ?_, fun ch hch => ?_, fun _ => hcmp⟩
  · rw [CounterBelowDecim, hcount]
    cases s.cfg.DECIM <;> decide
  · exact hcmp ch hch ▸ Nat.zero_le _

/-- Every comparator of the block after reset is 0 (R33). -/
@[simp] theorem Block.reset_CMP (ch : Channel) : Block.reset.CMP ch = 0 := by
  cases ch <;> rfl

/-- The machine right after reset has the invariants. -/
theorem inv_powerOn (cfg : Config) : Inv (State.powerOn cfg) :=
  inv_of_cleared rfl rfl fun ch _ => Block.reset_CMP ch

/-- What `RESET` and `START` leave has the invariants, from any state. -/
theorem inv_after_initialise (s : State) (en : Bool) (o : Output) :
    Inv (s.after (initialise s.cfg en s.block) o) :=
  inv_of_cleared (initialise_IF ..) (initialise_TICK_CNT ..) (initialise_CMP_eq_zero s.cfg en s.block)

/-- Settles O44: the state after reset is the power-on state of the free configuration. -/
theorem invariantsAtReset : Obligations.InvariantsAtReset :=
  ⟨inv_powerOn Config.built, inv_powerOn⟩

/-- Settles O45, by the induction over the run: `RESET` establishes the invariants and every operation keeps them. -/
theorem invariantsAfterReset : Obligations.InvariantsAfterReset := by
  intro s t is outs h
  obtain ⟨u, rest, hreset, hrun, -⟩ := runEvents_cons_cases h
  cases hreset
  exact runEvents_keeps (fun _ _ _ => exec_keeps_inv) (inv_after_initialise s false Output.empty) hrun

/-! ## The alternation flag (R23) -/

/-- The alternation flag as the parity of the counter. -/
theorem alternation_eq (b : Block) : b.alternation = decide (b.TICK_CNT.toNat % 2 = 1) :=
  Nat.testBit_zero _

/-- Settles O41: below `DECIM` the counter has one value with `DECIM = 1` and two with `DECIM = 2`. -/
theorem alternationFlagToggles : Obligations.AlternationFlagToggles := by
  rintro s ⟨hEN, hIF⟩ hcount
  have hcnt := countTick_TICK_CNT_toNat s (s.block.setIF false)
  rw [Block.setIF_TICK_CNT] at hcnt
  refine ⟨_, exec_service_of_guard s hEN hIF, fun htwo => ?_, fun hone => ?_⟩
  · simp only [CounterBelowDecim, htwo, Decim.toNat] at hcount hcnt
    rw [alternation_eq, alternation_eq, hcnt]
    obtain h | h : s.block.TICK_CNT.toNat = 0 ∨ s.block.TICK_CNT.toNat = 1 := by omega
    · simp [h]
    · simp [h]
  · apply BitVec.eq_of_toNat_eq
    rw [hcnt, hone]
    exact if_pos (Nat.le_add_left ..)

/-! ## The words read and the signals exported (R27, R33, R34) -/

/-- `STATUS` bit by bit. -/
theorem status_getLsbD (b : Block) (i : Nat) :
    b.status.getLsbD i =
      if i = 0 then b.EN else if i = 1 then b.IF else if i < 4 then b.TICK_CNT.getLsbD (i - 2) else false := by
  rw [Block.status, BitVec.getLsbD_append (n := 15) (m := 1), BitVec.getLsbD_append (n := 14) (m := 1),
    BitVec.getLsbD_append (n := 12) (m := 2)]
  match i with
  | 0 => simp
  | 1 => simp
  | i + 2 =>
    have hi : i + 2 < 4 ↔ i ≤ 1 := by omega
    simp [hi]

/-- Settles O14, bit by bit. -/
theorem statusWordLayout : Obligations.StatusWordLayout := by
  intro cfg b
  rw [show regRead cfg b 0 = b.status from regRead_status cfg b]
  refine ⟨status_getLsbD b 0, status_getLsbD b 1, ?_, ?_⟩
  · ext i hi
    rw [BitVec.getElem_extractLsb', status_getLsbD, if_neg (by omega), if_neg (by omega), if_pos (by omega),
      Nat.add_sub_cancel_left, BitVec.getLsbD_eq_getElem hi]
  · ext i hi
    rw [BitVec.getElem_extractLsb', status_getLsbD, if_neg (by omega), if_neg (by omega), if_neg (by omega)]
    simp

/-- With both flags and the counter at 0 the host reads `STATUS = 0`. -/
theorem status_of_cleared {b : Block} (hEN : b.EN = false) (hIF : b.IF = false) (hcount : b.TICK_CNT = 0) :
    b.status = 0 := by
  rw [Block.status, hEN, hIF, hcount]
  rfl

/-- With every comparator at 0 index 2 reads 0, whether or not there is a channel 1 (R28). -/
theorem readCmp1_of_cleared {cfg : Config} {b : Block} (h : ∀ ch ∈ cfg.channels, b.CMP ch = 0) :
    readCmp1 cfg b = 0 := by
  cases hn : cfg.NCH with
  | one => simp [readCmp1, hn]
  | two => simpa [readCmp1, hn] using h .ch1 ((mem_channels cfg .ch1).2 (.inr ⟨rfl, hn⟩))

/-- Settles O36: the words read after `RESET` are those of a cleared block. -/
theorem resetValues : Obligations.ResetValues := by
  have hcmp (s : State) := initialise_CMP_eq_zero s.cfg false s.block
  refine ⟨fun s => ⟨_, exec_reset s, ?_, ?_, ?_, rfl⟩, rfl, rfl, rfl, fun ch _ => Block.reset_CMP ch, rfl⟩
  · exact status_of_cleared (initialise_EN ..) (initialise_IF ..) (initialise_TICK_CNT ..)
  · exact hcmp s .ch0 ((mem_channels s.cfg .ch0).2 (.inl rfl))
  · exact readCmp1_of_cleared (hcmp s)

/-- Settles O53: `cmp_val` is the list of the lanes with each lane's comparator. -/
theorem exportedSignals : Obligations.ExportedSignals := by
  refine fun s => ⟨exports_irqEn s, exports_outEn s, exports_irqPend s, ?_, fun ch hch => ?_⟩
  · rw [exports_cmpVal, List.length_map, channels_length]
  · rw [exports_cmpVal, List.getElem?_map, channels_getElem?_toNat hch, Option.map_some]

end Sys2Proof.Machine


/-! The statements of 20_memory.md: there is no memory, so an access is the write of a comparator that the ports show
(R51), and a fetch is taking the next event (R45). -/

namespace Sys2Proof.Machine

/-! ## A committed value is visible (R51) -/

/-- `SERVICE` at a boundary is the boundary action, at the block with the flag taken and the counter at 0. -/
theorem exec_service_of_boundary {s : State} (hpending : TickPending s) (hboundary : AtBoundary s) :
    exec .service s = .next (boundaryAction s ((s.block.setIF false).setTickCnt 0)) := by
  obtain ⟨hEN, hIF⟩ := hpending
  have hb : isBoundary s.cfg (s.block.setIF false) = true := (isBoundary_iff s.cfg _).2 hboundary
  rw [exec_service_of_guard s hEN hIF, countTick, if_pos hb]

/-- With an output stage every lane is committed, lane 0 first, and nothing is hooked. -/
theorem boundaryAction_out_of_out {s : State} (b : Block) (hout : s.cfg.HAS_OUT = true) :
    (boundaryAction s b).out =
      { rsp := none, hooks := [], pulled := true,
        commits := s.cfg.channels.map fun ch => (ch, scaleSat s.cfg (laneSample s.env.nextFrame ch)) } :=
  (writeLanes_of_out s.cfg s.env.nextFrame b hout).1

/-- With an output stage `cmp_val` shows after the boundary action every lane's scaled sample. -/
theorem boundaryAction_cmpVal_of_out {s : State} (b : Block) (hout : s.cfg.HAS_OUT = true) :
    (boundaryAction s b).exports.cmpVal =
      s.cfg.channels.map fun ch => scaleSat s.cfg (laneSample s.env.nextFrame ch) :=
  List.map_congr_left fun ch hch => by
    rw [boundaryAction_block, writeLanes_CMP, if_pos ⟨hout, hch⟩]

/-- Without an output stage `cmp_val` shows after the boundary action what the block held. -/
theorem boundaryAction_cmpVal_of_no_out {s : State} (b : Block) (hout : s.cfg.HAS_OUT = false) :
    (boundaryAction s b).exports.cmpVal = s.cfg.channels.map b.CMP := by
  rw [exports_cmpVal, boundaryAction_cfg, boundaryAction_block, writeLanes_of_no_out s.cfg _ b hout]

/-- Without an output stage every lane goes to the hook, lane 0 first, and nothing is committed. -/
theorem boundaryAction_out_of_no_out {s : State} (b : Block) (hout : s.cfg.HAS_OUT = false) :
    (boundaryAction s b).out =
      { rsp := none, commits := [], pulled := true,
        hooks := s.cfg.channels.map fun ch => (ch, scaleSat s.cfg (laneSample s.env.nextFrame ch)) } := by
  rw [boundaryAction_out, writeLanes_of_no_out s.cfg _ b hout]

/-- Settles O12: the record of the boundary action says what was committed or hooked, and the ports follow the record
and the comparators. -/
theorem commitsShowOnThePorts : Obligations.CommitsShowOnThePorts := by
  intro s hpending hboundary
  refine ⟨_, exec_service_of_boundary hpending hboundary, ?_, ?_, fun hout => ?_, fun hout => ?_⟩
  · exact writeLanes_pulled ..
  · exact writeLanes_rsp ..
  · have hrec := boundaryAction_out_of_out ((s.block.setIF false).setTickCnt 0) hout
    have hcmp := boundaryAction_cmpVal_of_out ((s.block.setIF false).setTickCnt 0) hout
    refine ⟨?_, hcmp, outPulses_cmpWe_of_commits _ _ _ (congrArg Output.commits hrec), congrArg Output.hooks hrec⟩
    rw [hcmp, hrec, List.map_map]
    rfl
  · have hrec := boundaryAction_out_of_no_out ((s.block.setIF false).setTickCnt 0) hout
    refine ⟨?_, outPulses_cmpWe_of_no_commit _ _ (congrArg Output.commits hrec), congrArg Output.hooks hrec⟩
    rw [boundaryAction_cmpVal_of_no_out _ hout, exports_cmpVal]
    exact List.map_congr_left fun ch _ => by rw [Block.setTickCnt_CMP, Block.setIF_CMP]

/-! ## The next event (R45, R209) -/

/-- Running a byte that decodes is the meaning of its operation. -/
theorem runByte_of_decode {b : Byte} {i : Instr} (h : decode b = some i) (s : State) : runByte b s = exec i s := by
  simp [runByte, h]

/-- Settles O25: the step takes the head of the event list, and the list is the model's, with no program counter
(log entry 5). -/
theorem stepRunsTheDecodedEvent : Obligations.StepRunsTheDecodedEvent := by
  intro s b rest i hevents hdecode
  rw [step_of_cons hevents, runByte_of_decode hdecode]

end Sys2Proof.Machine

/-! The statements of 30_encoding.md: the operation map (R62), its inverse (R65) and the reserved bytes (R64), the ports
(R66) and the pseudo-instructions (R68). -/

namespace Sys2Proof

/-! ## The rows of the operation map (R62) -/

theorem OpRow.spells_iff (r : OpRow) (b : Byte) : r.spells b = true ↔ b &&& r.mask = r.pattern :=
  beq_iff_eq

/-- Two rows that spell one byte agree in every bit that both fix. -/
theorem OpRow.disjoint_eq_false_of_spells {r q : OpRow} {b : Byte} (hr : r.spells b = true)
    (hq : q.spells b = true) : r.disjoint q = false := by
  have hagree : (r.pattern ^^^ q.pattern) &&& r.mask &&& q.mask = 0 := by
    rw [← (r.spells_iff b).1 hr, ← (q.spells_iff b).1 hq]
    ext i hi
    simp only [BitVec.getElem_and, BitVec.getElem_xor]
    cases b[i] with
    | false => simp
    | true => cases r.mask[i] <;> simp
  simp [OpRow.disjoint, hagree]

theorem opTable_pairwise_disjoint : opTable.Pairwise fun r q => r.disjoint q = true := by
  decide

/-- The search finds the row a byte spells: no row before it spells the byte too. -/
theorem find_row_of_spells {r : OpRow} {b : Byte} (hr : r ∈ opTable) (hb : r.spells b = true) :
    opTable.find? (·.spells b) = some r := by
  obtain ⟨before, after, htable⟩ := List.append_of_mem hr
  refine List.find?_eq_some_iff_append.2 ⟨hb, before, after, htable, fun q hq => ?_⟩
  have hdisjoint : q.disjoint r = true :=
    (List.pairwise_append.1 (htable ▸ opTable_pairwise_disjoint)).2.2 q hq r List.mem_cons_self
  rw [Bool.not_eq_true']
  by_contra hqb
  rw [OpRow.disjoint_eq_false_of_spells (Bool.eq_true_of_not_eq_false hqb) hb] at hdisjoint
  cases hdisjoint

/-- The decoder answers the operation of the row its byte spells. -/
theorem decode_eq_some_iff_row (b : Byte) (i : Instr) :
    decode b = some i ↔ ∃ r ∈ opTable, b &&& r.mask = r.pattern ∧ i = r.build (idxOf b) := by
  rw [decode, Option.map_eq_some_iff]
  constructor
  · rintro ⟨r, hfind, rfl⟩
    have hb : r.spells b = true := List.find?_some (p := (OpRow.spells · b)) hfind
    exact ⟨r, List.mem_of_find?_eq_some hfind, (r.spells_iff b).1 hb, rfl⟩
  · rintro ⟨r, hr, hb, rfl⟩
    exact ⟨r, find_row_of_spells hr ((r.spells_iff b).2 hb), rfl⟩

/-! ## Decode and encode are inverse (R65) -/

/-- A byte is its `OP` field above its `IDX` field (R60). -/
theorem opOf_append_idxOf (b : Byte) : opOf b ++ idxOf b = b :=
  (BitVec.extractLsb'_append_extractLsb'_eq_extractLsb' (len₁ := 4) rfl).trans BitVec.extractLsb'_eq_self

@[simp] theorem opOf_encode (i : Instr) : opOf (encode i) = opCode i :=
  BitVec.extractLsb'_append_eq_left

@[simp] theorem idxOf_encode (i : Instr) : idxOf (encode i) = idxField i :=
  BitVec.extractLsb'_append_eq_right

/-- A byte is the encoding of an operation exactly if it has that operation's two fields. -/
theorem encode_eq_iff (i : Instr) (b : Byte) : encode i = b ↔ opCode i = opOf b ∧ idxField i = idxOf b := by
  constructor
  · rintro rfl
    exact ⟨(opOf_encode i).symm, (idxOf_encode i).symm⟩
  · rintro ⟨hop, hidx⟩
    rw [encode, hop, hidx, opOf_append_idxOf]

theorem decode_encode (i : Instr) : decode (encode i) = some i := by
  cases i with
  | rd idx => revert idx; decide
  | nop | start | stop | tick | service | reset => rfl

/-- A row that fixes all eight bits spells one byte. -/
theorem eq_of_full_mask {b p : Byte} (h : b &&& 0xFF = p) : b = p :=
  (BitVec.and_allOnes (x := b)).symm.trans h

/-- A byte that spells a row is the encoding of the row's operation. -/
theorem encode_build_of_spells {r : OpRow} {b : Byte} (hr : r ∈ opTable) (hb : b &&& r.mask = r.pattern) :
    encode (r.build (idxOf b)) = b := by
  simp only [opTable, List.mem_cons, List.not_mem_nil, or_false] at hr
  obtain rfl | rfl | rfl | rfl | rfl | rfl | rfl := hr
  case inr.inr.inr.inl =>
    refine (encode_eq_iff _ b).2 ⟨?_, rfl⟩
    have hop : opOf (b &&& 0xF0) = opOf b := by
      rw [opOf, BitVec.extractLsb'_and]
      exact BitVec.and_allOnes
    rw [← hop, hb]
    rfl
  all_goals
    obtain rfl := eq_of_full_mask hb
    rfl

/-- The one law of the encoding: a byte decodes to an operation exactly if it is its encoding. -/
theorem decode_eq_some_iff (b : Byte) (i : Instr) : decode b = some i ↔ encode i = b := by
  constructor
  · intro h
    obtain ⟨r, hr, hb, rfl⟩ := (decode_eq_some_iff_row b i).1 h
    exact encode_build_of_spells hr hb
  · rintro rfl
    exact decode_encode i

/-! ## The reserved bytes (R64) -/

theorem encode_wellFormed (i : Instr) : (EventFields.ofByte (encode i)).wellFormed = true :=
  match i with
  | .nop => Laws.EncodesWellFormed.nop
  | .start => Laws.EncodesWellFormed.start
  | .stop => Laws.EncodesWellFormed.stop
  | .rd idx => Laws.EncodesWellFormed.rd idx
  | .tick => Laws.EncodesWellFormed.tick
  | .service => Laws.EncodesWellFormed.service
  | .reset => Laws.EncodesWellFormed.reset

/-- Well-formed fields are those of an operation. -/
theorem exists_fields_of_wellFormed {e : EventFields} (h : e.wellFormed = true) :
    ∃ i, opCode i = e.OP ∧ idxField i = e.IDX := by
  simp only [EventFields.wellFormed, assignedOps, Bool.and_eq_true, List.contains_iff_mem, List.mem_cons,
    List.not_mem_nil, or_false, Bool.or_eq_true, beq_iff_eq] at h
  obtain ⟨hop, hidx⟩ := h
  by_cases hrd : e.OP = 0x3
  · exact ⟨.rd e.IDX, hrd.symm, rfl⟩
  · have hidx : e.IDX = 0 := hidx.resolve_left hrd
    obtain h | h | h | h | h | h | h := hop
    · exact ⟨.nop, h.symm, hidx.symm⟩
    · exact ⟨.start, h.symm, hidx.symm⟩
    · exact ⟨.stop, h.symm, hidx.symm⟩
    · exact absurd h hrd
    · exact ⟨.tick, h.symm, hidx.symm⟩
    · exact ⟨.service, h.symm, hidx.symm⟩
    · exact ⟨.reset, h.symm, hidx.symm⟩

/-- The reserved bytes are those whose fields are not well formed. -/
theorem decode_eq_none_iff (b : Byte) : decode b = none ↔ ¬ (EventFields.ofByte b).wellFormed = true := by
  constructor
  · intro hnone hwf
    obtain ⟨i, hfields⟩ := exists_fields_of_wellFormed hwf
    have hsome : decode b = some i := (decode_eq_some_iff b i).2 ((encode_eq_iff i b).2 hfields)
    exact absurd (hnone.symm.trans hsome) nofun
  · refine fun hwf => Option.eq_none_iff_forall_ne_some.2 fun i hi => hwf ?_
    rw [← (decode_eq_some_iff b i).1 hi]
    exact encode_wellFormed i

/-- The fields that are not well formed, as the two lists of R64. -/
theorem not_wellFormed_iff (e : EventFields) :
    ¬ e.wellFormed = true ↔
      e.OP ∈ [0x4, 0x5, 0x6, 0x7, 0xA, 0xB, 0xC, 0xD, 0xE] ∨
      (e.OP ∈ [0x0, 0x1, 0x2, 0x8, 0x9, 0xF] ∧ e.IDX ≠ 0) := by
  obtain ⟨op, idx⟩ := e
  by_cases hidx : idx = 0
  · subst hidx
    revert op
    decide
  · have hidx' : (idx == 0) = false := beq_false_of_ne hidx
    simp only [EventFields.wellFormed, hidx', hidx, ne_eq, not_false_eq_true, and_true]
    revert op
    decide

end Sys2Proof

namespace Sys2Proof.Machine

/-- Settles O20: both round trips are the one law of the encoding. -/
theorem decodeEncodeRoundTrip : Obligations.DecodeEncodeRoundTrip :=
  ⟨decode_encode, fun b i => (decode_eq_some_iff b i).1⟩

/-- Settles O22: the rows are disjoint, so the row the search finds is the only one a byte spells. -/
theorem operationMapRows : Obligations.OperationMapRows :=
  ⟨opTable_pairwise_disjoint, rfl, rfl, decode_eq_some_iff_row⟩

/-- A reserved byte as the next event is refused by name. -/
theorem step_of_reserved {s : State} {b : Byte} {rest : List Byte} (hs : s.events = b :: rest)
    (hb : decode b = none) : step s = .refused (.reservedByte b) := by
  rw [step_of_cons hs, runByte, hb]

/-- Settles O21: the bytes whose fields are not well formed, counted by running the decoder on all 256. -/
theorem reservedBytesAreThoseListed : Obligations.ReservedBytesAreThoseListed :=
  ⟨fun b => (decode_eq_none_iff b).trans (not_wellFormed_iff (.ofByte b)), by decide +kernel,
    fun _ _ _ => step_of_reserved⟩

/-- Settles O23: each word is the encoding of the operation it is to decode to, or has fields that are not
well formed. -/
theorem decodeOfWrittenWords : Obligations.DecodeOfWrittenWords :=
  ⟨decode_encode .nop, decode_encode .start, decode_encode .stop, decode_encode (.rd 6), decode_encode .tick,
    decode_encode .service, decode_encode .reset, (decode_eq_none_iff _).2 (by decide),
    (decode_eq_none_iff _).2 (by decide)⟩

/-- Settles O28, by induction on the events before the reserved byte: each of them takes one step, and the byte itself
has none. -/
theorem runWithReservedByteHasNoEnd : Obligations.RunWithReservedByteHasNoEnd := by
  intro s t before after b k hs hb hk hrun
  induction before generalizing s k with
  | nil =>
    obtain ⟨k, rfl⟩ := Nat.exists_eq_succ_of_ne_zero (Nat.ne_zero_of_lt hk)
    obtain ⟨u, hstep, -⟩ := core_run_succ_cases hrun
    rw [step_of_reserved hs hb] at hstep
    cases hstep
  | cons c before ih =>
    obtain ⟨k, rfl⟩ := Nat.exists_eq_succ_of_ne_zero (Nat.ne_zero_of_lt hk)
    obtain ⟨u, hstep, hrest⟩ := core_run_succ_cases hrun
    obtain ⟨c', hc'⟩ := step_events hstep
    have hu : u.events = before ++ b :: after := (List.cons.inj (hc'.symm.trans hs)).2
    exact ih u k hu (Nat.lt_of_succ_lt_succ hk) hrest

/-! ## The pseudo-instructions (R68) -/

theorem bytesOf_tickPairs (n : Nat) : bytesOf (tickPairs n) = (List.replicate n [0x80, 0x90]).flatten := by
  induction n with
  | zero => rfl
  | succ n ih =>
    rw [List.replicate_succ, List.flatten_cons, ← ih]
    rfl

/-- Settles O24: the bytes of `TICKS n` are those of its `n` pairs. -/
theorem pseudoExpansions : Obligations.PseudoExpansions :=
  ⟨rfl, bytesOf_tickPairs, rfl, rfl⟩

/-! ## The ports (R66) -/

/-- A byte that is no command refuses its whole cycle (log entry 10). -/
theorem cycle_of_not_command {p : InPulses} {b : Byte} (hp : p.cmd = some b) (hb : decodeCmd b = none) (s : State) :
    cycle p s = .refused (.reservedByte b) := by
  rw [cycle, hp, cmdEvents, hb]

/-- Settles O46: the host is the agent of `NOP`, `START`, `STOP` and `RD` and of no other operation. -/
theorem cmdPortTakesHostCommandsOnly : Obligations.CmdPortTakesHostCommandsOnly := by
  refine ⟨fun b => ?_, fun p s b hp hb => cycle_of_not_command hp hb s⟩
  rw [decodeCmd]
  cases decode b with
  | none => rfl
  | some i => cases i <;> rfl

/-- What an operation can leave in its record: an answer if it is `RD`, a boundary's record if it is `SERVICE` at a
boundary, and else nothing. -/
theorem exec_out_cases {i : Instr} {s t : State} (h : exec i s = .next t) :
    (∃ idx, i = .rd idx ∧ t.out = Output.respond (regRead s.cfg s.block idx)) ∨
    (i = .service ∧ AtBoundary s) ∧ (∃ b, t.out = (boundaryAction s b).out) ∨
    ((∀ idx, i ≠ .rd idx) ∧ ¬ (i = .service ∧ AtBoundary s)) ∧ t.out = Output.empty := by
  cases i with
  | rd idx =>
    cases h
    exact .inl ⟨idx, rfl, rfl⟩
  | service =>
    obtain ⟨-, -, rfl⟩ := exec_service_cases h
    obtain ⟨hb, hcount⟩ | ⟨hb, hcount⟩ := countTick_cases s (s.block.setIF false)
    · exact .inr (.inl ⟨⟨rfl, (isBoundary_iff s.cfg _).1 hb⟩, _, congrArg State.out hcount⟩)
    · have hoff : ¬ AtBoundary s := fun hat => by simp [(isBoundary_iff s.cfg (s.block.setIF false)).2 hat] at hb
      exact .inr (.inr ⟨⟨nofun, fun hat => hoff hat.2⟩, congrArg State.out hcount⟩)
  | nop | start | stop | tick | reset =>
    cases h
    exact .inr (.inr ⟨⟨nofun, nofun⟩, rfl⟩)

/-- Settles O54: the pulses follow the record, and each of the three kinds of record pulses its own ports. -/
theorem outputPulsesOfEveryStep : Obligations.OutputPulsesOfEveryStep := by
  intro i s t h
  rw [exec_cfg h, outPulses_rsp, outPulses_fReq, outPulses_hooks]
  obtain ⟨idx, rfl, hout⟩ | ⟨⟨rfl, hat⟩, b, hout⟩ | ⟨⟨hrd, hat⟩, hout⟩ := exec_out_cases h
  · rw [hout]
    refine ⟨fun w => ?_, by simp, ?_, by simp⟩
    · simp [eq_comm]
    · rw [outPulses_cmpWe_of_no_commit _ _ rfl]
      simp
  · cases hstage : s.cfg.HAS_OUT with
    | true =>
      rw [boundaryAction_out_of_out b hstage] at hout
      rw [hout, outPulses_cmpWe_of_commits _ _ _ rfl]
      simp [hat]
    | false =>
      rw [boundaryAction_out_of_no_out b hstage] at hout
      rw [hout, outPulses_cmpWe_of_no_commit _ _ rfl]
      simp [hat, Env.nextFrame]
  · rw [hout, outPulses_cmpWe_of_no_commit _ _ rfl]
    have hnot (out : Bool) : ¬ (i = .service ∧ AtBoundary s ∧ s.cfg.HAS_OUT = out) :=
      fun hi => hat ⟨hi.1, hi.2.1⟩
    simp [hrd, hat, hnot]

end Sys2Proof.Machine

/-! The statements of 40_rate_divider.md: `TICK` and `SERVICE` (R80 to R86), the pull (R84, R126), `TS` (R87) and the
rate over a run (R88). -/

namespace Sys2Proof.Machine

/-! ## `TICK` (R80, R86) -/

/-- Without the enable a tick is discarded. -/
theorem raiseTick_of_disabled {b : Block} (hEN : b.EN = false) : raiseTick b = b :=
  if_neg (by rw [hEN]; decide)

/-- Raising a tick that is pending already changes nothing. -/
theorem raiseTick_of_pending {b : Block} (hIF : b.IF = true) : raiseTick b = b := by
  have hsame : b.setIF true = b := by rw [← hIF]; rfl
  rw [raiseTick, hsame, ite_self]

/-- A second tick adds nothing to the first, enabled or not. -/
theorem raiseTick_raiseTick (b : Block) : raiseTick (raiseTick b) = raiseTick b := by
  cases hEN : b.EN with
  | true => exact raiseTick_of_pending (by rw [raiseTick_IF, hEN, Bool.true_or])
  | false => rw [raiseTick_of_disabled hEN, raiseTick_of_disabled hEN]

/-- Settles O6: the lemmas about `raiseTick`, field by field. -/
theorem tickSetsPendingIfEnabled : Obligations.TickSetsPendingIfEnabled := by
  refine ⟨decode_encode .tick, fun s => ⟨_, exec_tick s, ?_, raiseTick_EN _, raiseTick_TICK_CNT _,
    raiseTick_CMP _, rfl, rfl, rfl, rfl⟩⟩
  rw [State.after_block, raiseTick_IF]
  cases s.block.EN <;> rfl

/-! ## `SERVICE` (R81 to R85) -/

/-- The handler's body leaves the enable as it found it. -/
@[simp] theorem countTick_EN (s : State) (b : Block) : (countTick s b).block.EN = b.EN := by
  obtain ⟨-, h⟩ | ⟨-, h⟩ := countTick_cases s b <;> simp [h, writeLanes_flags]

/-- `SERVICE` off a boundary takes the flag, stores the count and does nothing else (R85). -/
theorem exec_service_of_not_boundary {s : State} (hpending : TickPending s) (hoff : ¬ AtBoundary s) :
    exec .service s =
      .next (s.after ((s.block.setIF false).setTickCnt (BitVec.ofNat 2 (nextCount s.block))) Output.empty) := by
  obtain ⟨hEN, hIF⟩ := hpending
  have hb : ¬ isBoundary s.cfg (s.block.setIF false) = true := fun hb => hoff ((isBoundary_iff s.cfg _).1 hb)
  rw [exec_service_of_guard s hEN hIF, countTick, if_neg hb, nextCount_setIF]

/-- The counter after `SERVICE`, as a number (R83). -/
theorem exec_service_TICK_CNT {s t : State} (h : exec .service s = .next t) :
    t.block.TICK_CNT.toNat = if AtBoundary s then 0 else s.block.TICK_CNT.toNat + 1 := by
  obtain ⟨-, -, rfl⟩ := exec_service_cases h
  exact countTick_TICK_CNT_toNat s _

/-- A step's record says that it pulled exactly if the step is `SERVICE` at a boundary (R84, R126). -/
theorem exec_pulled_iff {i : Instr} {s t : State} (h : exec i s = .next t) :
    t.out.pulled = true ↔ i = .service ∧ AtBoundary s := by
  obtain ⟨idx, rfl, hout⟩ | ⟨hat, b, hout⟩ | ⟨⟨-, hat⟩, hout⟩ := exec_out_cases h
  · simp [hout]
  · rw [hout, boundaryAction_out]
    exact iff_of_true (writeLanes_pulled ..) hat
  · simp only [hout, Output.empty_pulled, Bool.false_eq_true, hat]

/-- A step moves the environment on by the frame it pulled, if it pulled one, and never changes the frames. -/
theorem exec_env {i : Instr} {s t : State} (h : exec i s = .next t) :
    t.env.PULLS = s.env.PULLS + t.out.pulled.toNat ∧ t.env.FRAMES = s.env.FRAMES := by
  cases i with
  | service =>
    obtain ⟨-, -, rfl⟩ := exec_service_cases h
    obtain ⟨-, hcount⟩ | ⟨-, hcount⟩ := countTick_cases s (s.block.setIF false)
    · simp [hcount]
    · simp [hcount]
  | nop | start | stop | rd _ | tick | reset =>
    cases h
    exact ⟨rfl, rfl⟩

/-- The pulls after `SERVICE` (R84). -/
theorem exec_service_PULLS {s t : State} (h : exec .service s = .next t) :
    t.env.PULLS = s.env.PULLS + if AtBoundary s then 1 else 0 := by
  have hiff : t.out.pulled = true ↔ AtBoundary s := (exec_pulled_iff h).trans (and_iff_right rfl)
  rw [(exec_env h).1]
  cases hp : t.out.pulled <;> simp [← hiff, hp]

/-- Settles O8: the flag is cleared before the boundary test. -/
theorem serviceClearsPendingAlways : Obligations.ServiceClearsPendingAlways := by
  rintro s ⟨hEN, hIF⟩
  exact ⟨_, exec_service_of_guard s hEN hIF, countTick_IF .., countTick_EN .., countTick_cfg ..,
    countTick_events ..⟩

/-- Settles O9: `DECIM` is at most 4, so a count that is stored fits the two bits of the counter. -/
theorem serviceCountsToDecim : Obligations.ServiceCountsToDecim := by
  rintro s ⟨hEN, hIF⟩
  have h := exec_service_of_guard s hEN hIF
  exact ⟨_, h, exec_service_TICK_CNT h, (exec_pulled_iff h).trans (and_iff_right rfl)⟩

/-- Settles O10: what `SERVICE` answers off a boundary, read field by field. -/
theorem offBoundaryServiceHasNoSideEffect : Obligations.OffBoundaryServiceHasNoSideEffect := by
  intro s hpending hoff
  have h := exec_service_of_not_boundary hpending hoff
  exact ⟨_, h, rfl, (exec_service_TICK_CNT h).trans (if_neg hoff), rfl,
    fun ch => by rw [State.after_block, Block.setTickCnt_CMP, Block.setIF_CMP], rfl, rfl, rfl, rfl⟩

/-- Settles O30: the record says whether the step pulled, and the environment moved on by that much. -/
theorem onlyBoundaryServicePulls : Obligations.OnlyBoundaryServicePulls := by
  intro i s t h
  exact ⟨exec_pulled_iff h, exec_env h⟩

/-! ## `TICK` then `SERVICE` (R86, R87) -/

/-- The state `TS` leaves at an enabled block: the handler's body run on the block with its tick taken. -/
def servicedTick (s : State) : State :=
  countTick (s.after (raiseTick s.block) Output.empty) ((raiseTick s.block).setIF false)

/-- After a tick at an enabled block `SERVICE` is never refused. -/
theorem exec_service_after_tick {s : State} (hEN : s.block.EN = true) :
    exec .service (s.after (raiseTick s.block) Output.empty) = .next (servicedTick s) := by
  refine exec_service_of_guard _ ?_ ?_
  · rw [State.after_block, raiseTick_EN, hEN]
  · rw [State.after_block, raiseTick_IF, hEN, Bool.true_or]

/-- `TS` at an enabled block always runs. -/
theorem runEvents_ts {s : State} (hEN : s.block.EN = true) :
    runEvents Pseudo.ts.expand s = .next (servicedTick s, [Output.empty, (servicedTick s).out]) := by
  rw [Pseudo.expand, runEvents_cons, exec_tick, andThen_next, runEvents_cons, exec_service_after_tick hEN]
  rfl

@[simp] theorem servicedTick_EN (s : State) : (servicedTick s).block.EN = s.block.EN := by
  simp [servicedTick]

@[simp] theorem servicedTick_IF (s : State) : (servicedTick s).block.IF = false := by
  simp [servicedTick]

/-- A tick before a tick is serviced with it: the state is the one a single tick leads to. -/
theorem servicedTick_after_tick (s : State) :
    servicedTick (s.after (raiseTick s.block) Output.empty) = servicedTick s := by
  rw [servicedTick, State.after_block, raiseTick_raiseTick]
  rfl

/-- The counter after `TS`, as a number. -/
theorem servicedTick_TICK_CNT_toNat (s : State) :
    (servicedTick s).block.TICK_CNT.toNat = if AtBoundary s then 0 else s.block.TICK_CNT.toNat + 1 := by
  simp [servicedTick, countTick_TICK_CNT_toNat]

/-- The pulls after `TS`. -/
theorem servicedTick_PULLS {s : State} (hEN : s.block.EN = true) :
    (servicedTick s).env.PULLS = s.env.PULLS + if AtBoundary s then 1 else 0 := by
  simp [exec_service_PULLS (exec_service_after_tick hEN)]

/-- A comparator after `TS`, computed from the counter and the frames before it. -/
theorem servicedTick_CMP {s : State} {ch : Channel} (hch : ch ∈ s.cfg.channels) :
    (servicedTick s).block.CMP ch =
      if AtBoundary s ∧ s.cfg.HAS_OUT = true
      then scaleSat s.cfg (laneSample (s.env.frameAt s.env.PULLS) ch) else s.block.CMP ch := by
  simp [servicedTick, countTick_CMP, hch, Env.nextFrame]

/-- Settles O7: the second tick adds nothing to the first, and `TS` leaves nothing pending. -/
theorem secondTickIsMerged : Obligations.SecondTickIsMerged := by
  intro s hEN
  have hEN' : (s.after (raiseTick s.block) Output.empty).block.EN = true := (raiseTick_EN _).trans hEN
  refine ⟨fun hIF => ⟨_, exec_tick s, raiseTick_of_pending hIF⟩, servicedTick s,
    [Output.empty, Output.empty, (servicedTick s).out], _, ?_, runEvents_ts hEN,
    exec_service_of_not_guard _ fun hguard => by simp at hguard⟩
  have hrest := runEvents_ts hEN'
  rw [servicedTick_after_tick, Pseudo.expand] at hrest
  rw [runEvents_cons, exec_tick, andThen_next, hrest]
  rfl

/-- Settles O38: at an enabled block `TS` leaves `servicedTick`, at another one the tick is discarded and the guard of
`SERVICE` is false. -/
theorem tickThenService : Obligations.TickThenService := by
  refine ⟨fun s hEN _ => ?_, fun s hEN => ⟨⟨_, exec_tick s, raiseTick_of_disabled hEN⟩, ?_⟩⟩
  · exact ⟨_, _, runEvents_ts hEN, (servicedTick_EN s).trans hEN, servicedTick_IF s,
      servicedTick_TICK_CNT_toNat s, servicedTick_PULLS hEN, fun ch hch => servicedTick_CMP hch⟩
  · have hrefused : exec .service (s.after (raiseTick s.block) Output.empty) = .refused .noStep :=
      exec_service_of_not_guard _ fun hguard => by simp [hEN] at hguard
    rw [Pseudo.expand, runEvents_cons, exec_tick, andThen_next, runEvents_cons, hrefused]
    rfl

/-! ## What a run adds up to (R83, R84, R126) -/

/-- No run changes the configuration. -/
theorem runEvents_cfg {is : List Instr} {s t : State} {outs : List Output} (h : runEvents is s = .next (t, outs)) :
    t.cfg = s.cfg :=
  runEvents_keeps (P := fun u => u.cfg = s.cfg) (fun _ _ _ hu hexec => (exec_cfg hexec).trans hu) rfl h

/-- A run leaves one record per event. -/
theorem runEvents_length {is : List Instr} {s t : State} {outs : List Output} (h : runEvents is s = .next (t, outs)) :
    outs.length = is.length := by
  induction is generalizing s outs with
  | nil =>
    cases h
    rfl
  | cons i is ih =>
    obtain ⟨u, rest, -, hrun, rfl⟩ := runEvents_cons_cases h
    rw [List.length_cons, List.length_cons, ih hrun]

/-- A run of two lists, cut where the first one ends. -/
theorem runEvents_append_cases {xs ys : List Instr} {s t : State} {outs : List Output}
    (h : runEvents (xs ++ ys) s = .next (t, outs)) :
    ∃ u before rest, runEvents xs s = .next (u, before) ∧ runEvents ys u = .next (t, rest) ∧
      outs = before ++ rest := by
  rw [runEvents_append] at h
  obtain ⟨⟨u, before⟩, hxs, h⟩ := andThen_eq_next.1 h
  obtain ⟨⟨t', rest⟩, hys, h⟩ := andThen_eq_next.1 h
  cases h
  exact ⟨u, before, rest, hxs, hys, rfl⟩

/-- The pulls of a run are its boundary records (R126). -/
theorem runEvents_PULLS {is : List Instr} {s t : State} {outs : List Output} (h : runEvents is s = .next (t, outs)) :
    t.env.PULLS = s.env.PULLS + (outs.filter (·.pulled)).length := by
  induction is generalizing s outs with
  | nil =>
    cases h
    rfl
  | cons i is ih =>
    obtain ⟨u, rest, hexec, hrun, rfl⟩ := runEvents_cons_cases h
    rw [ih hrun, (exec_env hexec).1]
    cases hp : u.out.pulled <;> simp [hp, Nat.add_assoc, Nat.add_comm]

/-- With an output stage a boundary commits each lane once, and no other step commits (R120, R122). -/
theorem exec_commits_length {i : Instr} {s t : State} (h : exec i s = .next t) (hout : s.cfg.HAS_OUT = true)
    {ch : Channel} (hch : ch ∈ s.cfg.channels) :
    (t.out.commits.filter fun c => c.1 == ch).length = t.out.pulled.toNat := by
  obtain ⟨idx, -, hrec⟩ | ⟨-, b, hrec⟩ | ⟨-, hrec⟩ := exec_out_cases h
  · rw [hrec]
    rfl
  · rw [hrec, boundaryAction_out_of_out b hout, List.filter_map, List.length_map, ← List.countP_eq_length_filter]
    exact List.count_eq_one_of_mem (channels_nodup s.cfg) hch
  · rw [hrec]
    rfl

/-- With an output stage a run commits each lane once per boundary record. -/
theorem runEvents_commits_length {is : List Instr} {s t : State} {outs : List Output}
    (h : runEvents is s = .next (t, outs)) (hout : s.cfg.HAS_OUT = true) {ch : Channel} (hch : ch ∈ s.cfg.channels) :
    ((outs.flatMap (·.commits)).filter fun c => c.1 == ch).length = (outs.filter (·.pulled)).length := by
  induction is generalizing s outs with
  | nil =>
    cases h
    rfl
  | cons i is ih =>
    obtain ⟨u, rest, hexec, hrun, rfl⟩ := runEvents_cons_cases h
    have hrest := ih hrun (exec_cfg hexec ▸ hout) (exec_cfg hexec ▸ hch)
    rw [List.flatMap_cons, List.filter_append, List.length_append, hrest, exec_commits_length hexec hout hch]
    cases hp : u.out.pulled <;> simp [hp, Nat.add_comm]

/-- The measure of R83 and R84: `SERVICE` adds 1 to `PULLS * DECIM + TICK_CNT`, at a boundary as off it. -/
theorem exec_service_accounts {s t : State} (hs : CounterBelowDecim s) (h : exec .service s = .next t) :
    t.env.PULLS * s.cfg.DECIM.toNat + t.block.TICK_CNT.toNat
      = s.env.PULLS * s.cfg.DECIM.toNat + s.block.TICK_CNT.toNat + 1 := by
  rw [exec_service_PULLS h, exec_service_TICK_CNT h]
  by_cases hat : AtBoundary s
  · have hlast : s.block.TICK_CNT.toNat + 1 = s.cfg.DECIM.toNat := Nat.le_antisymm hs hat
    rw [if_pos hat, if_pos hat, Nat.add_mul, Nat.one_mul, Nat.add_zero, Nat.add_assoc, hlast]
  · rw [if_neg hat, if_neg hat, Nat.add_zero, Nat.add_assoc]

/-- One operation other than `RESET` and `START` adds to that measure what it services. -/
theorem exec_accounts {i : Instr} {s t : State} (hreset : i ≠ .reset) (hstart : i ≠ .start)
    (hs : CounterBelowDecim s) (h : exec i s = .next t) :
    t.env.PULLS * s.cfg.DECIM.toNat + t.block.TICK_CNT.toNat
      = s.env.PULLS * s.cfg.DECIM.toNat + s.block.TICK_CNT.toNat + [i].count .service := by
  cases i with
  | service => exact exec_service_accounts hs h
  | reset => exact absurd rfl hreset
  | start => exact absurd rfl hstart
  | tick =>
    cases h
    rw [State.after_block, raiseTick_TICK_CNT]
    rfl
  | nop | stop | rd _ =>
    cases h
    rfl

/-- Settles O40, by induction on the run: each event adds its own part, and every operation keeps (I2). -/
theorem everyServiceIsAccountedFor : Obligations.EveryServiceIsAccountedFor := by
  intro is
  induction is with
  | nil =>
    intro s t outs _ _ h
    cases h
    rfl
  | cons i is ih =>
    intro s t outs hops hs h
    obtain ⟨u, rest, hexec, hrun, -⟩ := runEvents_cons_cases h
    obtain ⟨⟨hreset, hstart⟩, hops⟩ := List.forall_mem_cons.1 hops
    have hrest := ih u t rest hops (exec_keeps_counterBelowDecim hs hexec) hrun
    rw [exec_cfg hexec] at hrest
    rw [hrest, exec_accounts hreset hstart hs hexec, List.count_cons (l := is), List.count_singleton]
    omega

/-! ## The rate after `START` (R88) -/

theorem length_tickPairs (n : Nat) : (tickPairs n).length = 2 * n := by
  induction n with
  | zero => rfl
  | succ n ih =>
    rw [tickPairs, List.length_cons, List.length_cons, ih]
    rfl

theorem count_service_tickPairs (n : Nat) : (tickPairs n).count .service = n := by
  induction n with
  | zero => rfl
  | succ n ih => rw [tickPairs, List.count_cons_of_ne (by decide), List.count_cons_self, ih]

theorem eq_tick_or_service_of_mem_tickPairs {n : Nat} {i : Instr} (h : i ∈ tickPairs n) :
    i = .tick ∨ i = .service := by
  induction n with
  | zero => cases h
  | succ n ih =>
    rw [tickPairs, List.mem_cons, List.mem_cons] at h
    obtain h | h | h := h
    · exact .inl h
    · exact .inr h
    · exact ih h

theorem tickPairs_add (m n : Nat) : tickPairs (m + n) = tickPairs m ++ tickPairs n := by
  induction m with
  | zero => rw [Nat.zero_add]; rfl
  | succ m ih =>
    rw [Nat.succ_add, tickPairs, ih]
    rfl

/-- From an enabled block with nothing pending `TICKS n` runs and comes back to one. -/
theorem exists_runEvents_tickPairs {s : State} (n : Nat) (hEN : s.block.EN = true) (hIF : s.block.IF = false) :
    ∃ t outs, runEvents (tickPairs n) s = .next (t, outs) ∧ t.block.EN = true ∧ t.block.IF = false := by
  induction n generalizing s with
  | zero => exact ⟨s, [], rfl, hEN, hIF⟩
  | succ n ih =>
    obtain ⟨t, outs, hrun, ht⟩ := ih ((servicedTick_EN s).trans hEN) (servicedTick_IF s)
    have hsplit : tickPairs (n + 1) = Pseudo.ts.expand ++ tickPairs n := rfl
    refine ⟨t, Output.empty :: (servicedTick s).out :: outs, ?_, ht⟩
    rw [hsplit, runEvents_append, runEvents_ts hEN, andThen_next, hrun]
    rfl

/-- `n` serviced ticks from the counter at 0, divided by `DECIM`: the boundaries are the quotient and the counter is the
remainder. -/
theorem tickPairs_div_mod {s t : State} {outs : List Output} {n : Nat} (hcount : s.block.TICK_CNT = 0)
    (h : runEvents (tickPairs n) s = .next (t, outs)) :
    n / s.cfg.DECIM.toNat = (outs.filter (·.pulled)).length ∧ n % s.cfg.DECIM.toNat = t.block.TICK_CNT.toNat := by
  have hpos : 0 < s.cfg.DECIM.toNat := by cases s.cfg.DECIM <;> decide
  have hs : CounterBelowDecim s := by rw [CounterBelowDecim, hcount]; exact hpos
  have ht : CounterBelowDecim t := runEvents_keeps (fun _ _ _ => exec_keeps_counterBelowDecim) hs h
  rw [CounterBelowDecim, runEvents_cfg h] at ht
  have hops : ∀ i ∈ tickPairs n, i ≠ .reset ∧ i ≠ .start := by
    intro i hi
    obtain rfl | rfl := eq_tick_or_service_of_mem_tickPairs hi <;> decide
  have haccount := everyServiceIsAccountedFor _ s t outs hops hs h
  rw [runEvents_PULLS h, count_service_tickPairs, hcount] at haccount
  refine (Nat.div_mod_unique hpos).2 ⟨?_, ht⟩
  have hzero : (0 : BitVec 2).toNat = 0 := rfl
  rw [hzero, Nat.add_mul] at haccount
  rw [Nat.mul_comm]
  omega

/-- The counter at `m mod DECIM` is at a boundary exactly if `DECIM` divides `m + 1`. -/
theorem Decim.le_mod_add_one_iff (d : Decim) (m : Nat) : d.toNat ≤ m % d.toNat + 1 ↔ (m + 1) % d.toNat = 0 := by
  cases d <;> simp only [Decim.toNat] <;> omega

/-- From the counter at 0 the `k`-th `TS` is a boundary exactly if `DECIM` divides `k`: the `k - 1` before it left the
counter at their remainder. -/
theorem tickPairs_pulled_iff {s t : State} {outs : List Output} {n k : Nat} (hcount : s.block.TICK_CNT = 0)
    (h : runEvents (tickPairs n) s = .next (t, outs)) (hk : 1 ≤ k) (hkn : k ≤ n) :
    ∃ o, outs[2 * k - 1]? = some o ∧ (o.pulled = true ↔ k % s.cfg.DECIM.toNat = 0) := by
  obtain ⟨m, rfl⟩ := Nat.exists_eq_add_of_le' hk
  obtain ⟨r, rfl⟩ := Nat.exists_eq_add_of_le hkn
  rw [Nat.add_right_comm, Nat.add_assoc, tickPairs_add] at h
  obtain ⟨u, before, rest, hbefore, hrest, rfl⟩ := runEvents_append_cases h
  obtain ⟨v, fromService, htick, hfromService, rfl⟩ := runEvents_cons_cases hrest
  obtain ⟨w, _, hservice, -, rfl⟩ := runEvents_cons_cases hfromService
  refine ⟨w.out, ?_, ?_⟩
  · have hlen : before.length = 2 * m := (runEvents_length hbefore).trans (length_tickPairs m)
    have hindex : 2 * (m + 1) - 1 = before.length + 1 := by omega
    rw [hindex, List.getElem?_append_right (Nat.le_add_right ..), Nat.add_sub_cancel_left]
    rfl
  · have hv : v.block.TICK_CNT.toNat = m % s.cfg.DECIM.toNat := by
      rw [(tickPairs_div_mod hcount hbefore).2]
      cases htick
      rw [State.after_block, raiseTick_TICK_CNT]
    rw [exec_pulled_iff hservice, and_iff_right rfl, AtBoundary, exec_cfg htick, runEvents_cfg hbefore, hv]
    exact Decim.le_mod_add_one_iff ..

/-- Settles O39: by the account of every `SERVICE` the boundaries and the counter are quotient and remainder of the
serviced ticks, and the records follow the boundaries. -/
theorem rateInvariantAfterStart : Obligations.RateInvariantAfterStart := by
  intro s₀ s N hstart
  cases hstart
  have hcount := initialise_TICK_CNT s₀.cfg true s₀.block
  obtain ⟨t, outs, hrun, hEN, hIF⟩ := exists_runEvents_tickPairs N
    (s := s₀.after (initialise s₀.cfg true s₀.block) Output.empty) (initialise_EN ..) (initialise_IF ..)
  obtain ⟨hdiv, hmod⟩ := tickPairs_div_mod hcount hrun
  refine ⟨t, outs, hrun, hEN, hIF, hmod.symm, ?_, (runEvents_length hrun).trans (length_tickPairs N), hdiv.symm,
    fun k hk hkN => tickPairs_pulled_iff hcount hrun hk hkN, fun hout ch hch => ?_⟩
  · rw [hdiv, runEvents_PULLS hrun]
  · rw [hdiv, runEvents_commits_length hrun hout hch]

end Sys2Proof.Machine

/-! The statements of 41_sample_scaler.md: the scaler on exact integers (R100 to R109). -/

namespace Sys2Proof.Machine

/-! ## The stages of the scaler -/

/-- The low clamp loses no bit: its value is the larger of `b` and 0 (R102). -/
@[simp] theorem lowClamp_coe (b : Int) : (lowClamp b : Int) = max b 0 :=
  Int.toNat_of_nonneg (le_max_right b 0)

theorem lowClamp_mono {b c : Int} (h : b ≤ c) : lowClamp b ≤ lowClamp c :=
  Int.toNat_le_toNat (max_le_max_right 0 h)

theorem lowClamp_of_nonpos {b : Int} (h : b ≤ 0) : lowClamp b = 0 := by
  rw [lowClamp, max_eq_right h, Int.toNat_zero]

/-- The interval of the biased sample (R101). -/
theorem biased_bounds (cfg : Config) (s : Sample) : -32768 ≤ biased cfg s ∧ biased cfg s ≤ 98302 := by
  have hlow := BitVec.le_toInt s
  have hhigh : s.toInt < 2 ^ 15 := BitVec.toInt_lt
  have hBIAS := cfg.BIAS.isLt
  rw [biased]
  omega

/-- The interval of the biased sample after the low clamp (R102). -/
theorem lowClamp_biased_le (cfg : Config) (s : Sample) : lowClamp (biased cfg s) ≤ 98302 := by
  have hb := (biased_bounds cfg s).2
  have hcoe := lowClamp_coe (biased cfg s)
  omega

theorem rescale_mono (cfg : Config) {b c : Nat} (h : b ≤ c) : rescale cfg b ≤ rescale cfg c :=
  Nat.div_le_div_right (Nat.mul_le_mul_right _ h)

/-- The shift makes no value larger than the product (R104). -/
theorem rescale_le_product (cfg : Config) (b : Nat) : rescale cfg b ≤ b * cfg.MULT.toNat :=
  Nat.div_le_self ..

/-- The shift is the floor of the division by `2^SHIFT` (R104). -/
theorem rescale_floor (cfg : Config) (b : Nat) :
    rescale cfg b * 2 ^ cfg.SHIFT.toNat ≤ b * cfg.MULT.toNat ∧
      b * cfg.MULT.toNat < (rescale cfg b + 1) * 2 ^ cfg.SHIFT.toNat :=
  ⟨Nat.div_mul_le_self .., by rw [Nat.add_one_mul]; exact Nat.lt_div_mul_add (Nat.two_pow_pos _)⟩

@[simp] theorem rescale_zero (cfg : Config) : rescale cfg 0 = 0 := by simp [rescale]

theorem rescale_of_MULT_eq_zero {cfg : Config} (h : cfg.MULT = 0) (b : Nat) : rescale cfg b = 0 := by
  simp [rescale, h]

/-- The value of the scaler: the rescaled value under the high clamp (R106). -/
theorem scaleSat_toNat (cfg : Config) (s : Sample) :
    (scaleSat cfg s).toNat = min (rescale cfg (lowClamp (biased cfg s))) cfg.TOP.toNat :=
  highClamp_toNat ..

/-- The scaler answers 0 where the rescaled value is 0. -/
theorem scaleSat_eq_zero_of_rescale {cfg : Config} {s : Sample} (h : rescale cfg (lowClamp (biased cfg s)) = 0) :
    scaleSat cfg s = 0 := by
  apply BitVec.eq_of_toNat_eq
  rw [scaleSat_toNat, h, Nat.zero_min]
  rfl

/-- With `TOP = 0` the high clamp leaves nothing but 0. -/
theorem scaleSat_of_TOP_eq_zero {cfg : Config} (h : cfg.TOP = 0) (s : Sample) : scaleSat cfg s = 0 := by
  have hle := scaleSat_le_TOP cfg s
  rw [h] at hle
  exact BitVec.eq_of_toNat_eq (Nat.le_zero.1 hle)

theorem scaleSat_mono (cfg : Config) {s₁ s₂ : Sample} (h : s₁.toInt ≤ s₂.toInt) :
    (scaleSat cfg s₁).toNat ≤ (scaleSat cfg s₂).toNat := by
  rw [scaleSat_toNat, scaleSat_toNat]
  have hbiased : biased cfg s₁ ≤ biased cfg s₂ := Int.add_le_add_right h _
  exact min_le_min_right _ (rescale_mono cfg (lowClamp_mono hbiased))

/-! ## The statements about the scaler -/

/-- Settles O16: each stage is its exact integer operation, so their composite is the one expression. -/
theorem scaleSatIsTheExactPipeline : Obligations.ScaleSatIsTheExactPipeline := by
  intro cfg s
  rw [scaleSat_toNat, rescale]
  push_cast
  rw [lowClamp_coe, biased]

/-- Settles O17: every stage is monotone, and a 0 at the low clamp, the product or the high clamp reaches the output. -/
theorem scaleSatLaws : Obligations.ScaleSatLaws := by
  intro cfg
  refine ⟨fun _ _ => scaleSat_mono cfg, scaleSat_le_TOP cfg, rescale_floor cfg, fun s hs => ?_,
    fun hMULT s => scaleSat_eq_zero_of_rescale (rescale_of_MULT_eq_zero hMULT _), scaleSat_of_TOP_eq_zero⟩
  have hbiased : biased cfg s ≤ 0 := by
    rw [biased]
    omega
  apply scaleSat_eq_zero_of_rescale
  rw [lowClamp_of_nonpos hbiased, rescale_zero]

/-- Settles O19: the widths follow from the intervals of R101 and R102, and the largest product bounds `p` and `q`. -/
theorem scalerWidthsSuffice : Obligations.ScalerWidthsSuffice := by
  intro cfg s
  have hb := biased_bounds cfg s
  have hb0 := lowClamp_biased_le cfg s
  have hp : lowClamp (biased cfg s) * cfg.MULT.toNat < 2 ^ 33 :=
    calc lowClamp (biased cfg s) * cfg.MULT.toNat
        ≤ 98302 * 65535 := Nat.mul_le_mul hb0 (Nat.le_of_lt_succ cfg.MULT.isLt)
      _ < 2 ^ 33 := by decide
  exact ⟨by omega, by omega, by omega, hp, (rescale_le_product cfg _).trans_lt hp, (scaleSat cfg s).isLt⟩

/-- Settles O18: with `MULT = 1` and `SHIFT = 0` the exact pipeline multiplies and divides by 1. -/
theorem identityScalerOnlyBiasesAndClamps : Obligations.IdentityScalerOnlyBiasesAndClamps := by
  intro cfg s hMULT hSHIFT
  have hone : (cfg.MULT.toNat : Int) = 1 := by rw [hMULT]; rfl
  have hzero : cfg.SHIFT.toNat = 0 := by rw [hSHIFT]; rfl
  rw [scaleSatIsTheExactPipeline, hone, hzero, pow_zero, mul_one, Int.ediv_one]

end Sys2Proof.Machine

/-! The statements of 42_pwm_writer.md: the boundary action (R120), the commit (R122), the lanes (R123) and the hook
(R124). -/

namespace Sys2Proof.Machine

/-! ## The comparators after the boundary action (R122 to R124) -/

/-- With an output stage the boundary action leaves in a lane's comparator that lane's scaled sample. -/
theorem boundaryAction_CMP_of_out {s : State} (b : Block) (hout : s.cfg.HAS_OUT = true) {ch : Channel}
    (hch : ch ∈ s.cfg.channels) :
    (boundaryAction s b).block.CMP ch = scaleSat s.cfg (laneSample s.env.nextFrame ch) := by
  rw [boundaryAction_block, writeLanes_CMP, if_pos ⟨hout, hch⟩]

/-- Without an output stage the boundary action leaves the block as it found it (R124). -/
theorem boundaryAction_block_of_no_out {s : State} (b : Block) (hout : s.cfg.HAS_OUT = false) :
    (boundaryAction s b).block = b := by
  rw [boundaryAction_block, writeLanes_of_no_out s.cfg _ b hout]

/-- The boundary action leaves the counter as it found it: `SERVICE` clears it before. -/
theorem boundaryAction_TICK_CNT (s : State) (b : Block) : (boundaryAction s b).block.TICK_CNT = b.TICK_CNT := by
  obtain ⟨-, -, hcount⟩ := writeLanes_flags s.cfg s.env.nextFrame b
  exact hcount

/-- Every commit of the boundary action is held by its comparator and is at most `TOP` (R105, R122). -/
theorem boundaryAction_commits_held (s : State) (b : Block) :
    ∀ c ∈ (boundaryAction s b).out.commits,
      (boundaryAction s b).block.CMP c.1 = c.2 ∧ c.2.toNat ≤ s.cfg.TOP.toNat := by
  cases hout : s.cfg.HAS_OUT with
  | true =>
    rw [boundaryAction_out_of_out b hout, List.forall_mem_map]
    exact fun ch hch => ⟨boundaryAction_CMP_of_out b hout hch, scaleSat_le_TOP ..⟩
  | false =>
    rw [boundaryAction_out_of_no_out b hout]
    exact List.forall_mem_nil _

/-- Every value the boundary action hooks is at most `TOP` (R105, R124). -/
theorem boundaryAction_hooks_le_TOP (s : State) (b : Block) :
    ∀ c ∈ (boundaryAction s b).out.hooks, c.2.toNat ≤ s.cfg.TOP.toNat := by
  cases hout : s.cfg.HAS_OUT with
  | true =>
    rw [boundaryAction_out_of_out b hout]
    exact List.forall_mem_nil _
  | false =>
    rw [boundaryAction_out_of_no_out b hout, List.forall_mem_map]
    exact fun ch _ => scaleSat_le_TOP ..

/-- Only the boundary action commits or hooks: any step that is not one leaves both lists empty. -/
theorem exec_boundaryAction_or_silent {i : Instr} {s t : State} (h : exec i s = .next t) :
    (∃ b, t = boundaryAction s b) ∨ t.out.commits = [] ∧ t.out.hooks = [] := by
  obtain ⟨idx, -, hrec⟩ | ⟨⟨rfl, hat⟩, -⟩ | ⟨-, hrec⟩ := exec_out_cases h
  · exact .inr (by simp [hrec])
  · obtain ⟨hEN, hIF, -⟩ := exec_service_cases h
    rw [exec_service_of_boundary ⟨hEN, hIF⟩ hat] at h
    cases h
    exact .inl ⟨_, rfl⟩
  · exact .inr (by simp [hrec])

/-! ## The statements about the writer -/

/-- Settles O11: `SERVICE` at a boundary is the boundary action, and `HAS_OUT` decides whether its lanes are committed
or hooked. -/
theorem boundaryActionCommitsOrHooks : Obligations.BoundaryActionCommitsOrHooks := by
  intro s hpending hboundary
  refine ⟨_, exec_service_of_boundary hpending hboundary, rfl, rfl, writeLanes_pulled .., writeLanes_rsp ..,
    boundaryAction_TICK_CNT .., fun hout => ?_, fun hout => ?_⟩
  · have hrec := boundaryAction_out_of_out ((s.block.setIF false).setTickCnt 0) hout
    exact ⟨fun ch hch => boundaryAction_CMP_of_out _ hout hch, congrArg Output.hooks hrec,
      congrArg Output.commits hrec⟩
  · have hrec := boundaryAction_out_of_no_out ((s.block.setIF false).setTickCnt 0) hout
    refine ⟨fun ch => ?_, congrArg Output.commits hrec, congrArg Output.hooks hrec⟩
    rw [boundaryAction_block_of_no_out _ hout, Block.setTickCnt_CMP, Block.setIF_CMP]

/-- Settles O13: after the boundary action the comparator is a function of the configuration and of the lane's sample. -/
theorem laneDependsOnItsOwnSample : Obligations.LaneDependsOnItsOwnSample := by
  intro s s' ch hcfg hch hout hpending hpending' hboundary hboundary' hsample
  refine ⟨_, _, exec_service_of_boundary hpending hboundary, exec_service_of_boundary hpending' hboundary', ?_⟩
  rw [boundaryAction_CMP_of_out _ hout hch, boundaryAction_CMP_of_out _ (hcfg ▸ hout) (hcfg ▸ hch), hcfg]
  exact congrArg (scaleSat s.cfg) hsample

/-- Settles O34: a step either is the boundary action, whose scaled values are held and at most `TOP`, or commits and
hooks nothing. -/
theorem committedValuesAreHeldAndWithinTop : Obligations.CommittedValuesAreHeldAndWithinTop := by
  intro i s t h
  obtain ⟨b, rfl⟩ | ⟨hcommits, hhooks⟩ := exec_boundaryAction_or_silent h
  · exact ⟨boundaryAction_commits_held s b, boundaryAction_hooks_le_TOP s b⟩
  · simp [hcommits, hhooks]

end Sys2Proof.Machine

/-! The statements of 43_lifecycle_config.md: `RESET`, `NOP`, `START`, `STOP`, `RD` (R140 to R146) and the build-time
checks (R148 to R154) with what they promise of a deployed block. -/

namespace Sys2Proof.Machine

/-! ## `RESET`, `NOP`, `RD` (R140, R141, R144) -/

/-- Settles O1: what `RESET` leaves, read field by field. -/
theorem resetClearsTheBlock : Obligations.ResetClearsTheBlock :=
  ⟨decode_encode .reset, fun s => ⟨_, exec_reset s, initialise_EN .., initialise_IF .., initialise_TICK_CNT ..,
    initialise_CMP_eq_zero s.cfg false s.block, rfl, rfl, rfl, rfl⟩⟩

/-- Settles O2: `NOP` writes the block it read. -/
theorem nopChangesNothing : Obligations.NopChangesNothing :=
  ⟨decode_encode .nop, fun s => ⟨_, exec_nop s, rfl, rfl, rfl, rfl, rfl⟩⟩

/-- Settles O5: the answer is a function of configuration and block, which `RD` keeps, so a second `RD` answers it
again. -/
theorem readAnswersWithoutSideEffect : Obligations.ReadAnswersWithoutSideEffect :=
  fun idx => ⟨decode_encode (.rd idx), fun s => ⟨_, exec_rd idx s, rfl, rfl, ⟨rfl, rfl, rfl⟩, _, exec_rd idx _, rfl⟩⟩

/-! ## `START` and `STOP` (R142, R143, R146) -/

theorem Decim.toNat_pos (d : Decim) : 0 < d.toNat := by
  cases d <;> decide

/-- Of the first serviced ticks after `START` only number `DECIM` is a boundary (R142). -/
theorem exists_pulled_iff_after_start {s₀ s : State} (h : exec .start s₀ = .next s) {k : Nat}
    (hk : k ≤ s₀.cfg.DECIM.toNat) :
    ∃ u outs, runEvents (tickPairs k) s = .next (u, outs) ∧
      ((∃ o ∈ outs, o.pulled = true) ↔ k = s₀.cfg.DECIM.toNat) := by
  obtain ⟨u, outs, hrun, -, -, -, -, -, hboundaries, -⟩ := rateInvariantAfterStart s₀ s k h
  refine ⟨u, outs, hrun, ?_⟩
  calc (∃ o ∈ outs, o.pulled = true)
      ↔ 0 < (outs.filter (·.pulled)).length := List.length_filter_pos_iff.symm
    _ ↔ s₀.cfg.DECIM.toNat ≤ k := by rw [hboundaries, exec_cfg h, Nat.div_pos_iff, and_iff_right (Decim.toNat_pos _)]
    _ ↔ k = s₀.cfg.DECIM.toNat := ⟨Nat.le_antisymm hk, Eq.ge⟩

/-- Settles O3: `START` leaves the cleared and enabled block, and the rate invariant counts the boundaries from there. -/
theorem startGivesTheStartedState : Obligations.StartGivesTheStartedState :=
  ⟨decode_encode .start, fun s => ⟨_, exec_start s, initialise_EN .., initialise_IF .., initialise_TICK_CNT ..,
    initialise_CMP_eq_zero s.cfg true s.block, initialise_EN s.cfg true s.block, initialise_EN s.cfg true s.block,
    rfl, ⟨rfl, rfl, rfl⟩, fun _ hk => exists_pulled_iff_after_start (exec_start s) hk⟩⟩

/-- `STOP` writes the two flags and no comparator. -/
theorem setEN_setIF_CMP (b : Block) (en pending : Bool) : ((b.setEN en).setIF pending).CMP = b.CMP :=
  funext fun ch => by rw [Block.setIF_CMP, Block.setEN_CMP]

/-- Settles O4: with `EN = 0` the guard of `SERVICE` is false and a tick is discarded. -/
theorem stopDropsThePendingTick : Obligations.StopDropsThePendingTick := by
  refine ⟨decode_encode .stop, fun s => ?_⟩
  have hcmp := setEN_setIF_CMP s.block false false
  exact ⟨_, exec_stop s, rfl, rfl, rfl, congrFun hcmp, rfl, rfl, rfl, congrArg s.cfg.channels.map hcmp, rfl,
    ⟨rfl, rfl, rfl⟩, exec_service_of_not_guard _ nofun, _, exec_tick _,
    raiseTick_of_disabled (b := (s.block.setEN false).setIF false) rfl⟩

/-- The whole record `S` after `START` is the same from every state of a configuration. -/
theorem S_of_exec_start {cfg : Config} {s t : State} (hcfg : s.cfg = cfg) (h : exec .start s = .next t) :
    t.S = (true, false, 0, cfg.channels.map fun _ => 0) := by
  subst hcfg
  cases h
  have hcmp : s.cfg.channels.map (initialise s.cfg true s.block).CMP = s.cfg.channels.map fun _ => 0 :=
    List.map_congr_left (initialise_CMP_eq_zero s.cfg true s.block)
  simp [State.S, hcmp]

/-- The exported signals are a function of the record `S` (R34). -/
theorem exports_eq_of_S_eq {s t : State} (h : s.S = t.S) : s.exports = t.exports := by
  simp only [State.S, Prod.mk.injEq] at h
  obtain ⟨hEN, hIF, -, hcmp⟩ := h
  simp only [State.exports, hEN, hIF, hcmp]

/-- Settles O37: `START` leaves one record `S` for the configuration, whatever ran before it, and `S` decides the
exports. -/
theorem stopStartIsStart : Obligations.StopStartIsStart := by
  intro s s' hcfg
  have hstopped := S_of_exec_start (exec_cfg (exec_stop s)) (exec_start _)
  have hstarted := S_of_exec_start rfl (exec_start s)
  have hreset := S_of_exec_start ((exec_cfg (exec_reset s')).trans hcfg) (exec_start _)
  have hab := hstopped.trans hstarted.symm
  have hbc := hstarted.trans hreset.symm
  exact ⟨_, _, _, _, _, exec_stop s, exec_start _, exec_start s, exec_reset s', exec_start _, hab, hbc, hreset,
    exports_eq_of_S_eq hab, exports_eq_of_S_eq hbc⟩

/-! ## The read view as numbers (R145) -/

/-- Fields side by side are the sum of the fields, each at the weight of its place. -/
theorem toNat_append_eq_add {m n : Nat} (x : BitVec m) (y : BitVec n) :
    (x ++ y).toNat = x.toNat * 2 ^ n + y.toNat := by
  rw [BitVec.toNat_append, ← Nat.shiftLeft_add_eq_or_of_lt y.isLt, Nat.shiftLeft_eq]

theorem nchBits_toNat (n : ChannelCount) : (nchBits n).toNat = n.toNat := by
  cases n <;> rfl

theorem decimBits_toNat (d : Decim) : (decimBits d).toNat = d.toNat := by
  cases d <;> rfl

/-- `STATUS` as a number (R27). -/
theorem status_toNat (b : Block) : b.status.toNat = b.TICK_CNT.toNat * 4 + b.IF.toNat * 2 + b.EN.toNat := by
  simp only [Block.status, toNat_append_eq_add, BitVec.toNat_ofBool, BitVec.ofNat_eq_ofNat, BitVec.toNat_ofNat]
  omega

/-- `CFG` as a number (R28). -/
theorem cfgWord_toNat (cfg : Config) :
    (cfgWord cfg).toNat
      = cfg.SHIFT.toNat * 256 + cfg.NCH.toNat * 16 + cfg.HAS_OUT.toNat * 8 + cfg.DECIM.toNat := by
  simp only [cfgWord, toNat_append_eq_add, nchBits_toNat, decimBits_toNat, BitVec.toNat_ofBool,
    BitVec.ofNat_eq_ofNat, BitVec.toNat_ofNat]
  omega

/-- Index 2 reads channel 1 where there is one (R28). -/
theorem readCmp1_eq_ite (cfg : Config) (b : Block) :
    readCmp1 cfg b = if cfg.NCH.toNat = 2 then b.CMP .ch1 else 0 := by
  cases h : cfg.NCH <;> simp [readCmp1, h, ChannelCount.toNat]

/-- The indices above 6 name no word (R145). -/
theorem regRead_of_unassigned (cfg : Config) (b : Block) {idx : BitVec 4} (h : 7 ≤ idx.toNat) :
    regRead cfg b idx = 0 := by
  unfold regRead
  split
  case h_8 => rfl
  all_goals omega

/-- Settles O15, index by index: the two packed words are the sums of their fields. -/
theorem regReadIsTheArithmeticMap : Obligations.RegReadIsTheArithmeticMap :=
  fun cfg b => ⟨status_toNat b, rfl, readCmp1_eq_ite cfg b, cfgWord_toNat cfg, rfl, rfl, rfl,
    fun _ => regRead_of_unassigned cfg b⟩

/-! ## The build-time checks (R148 to R154) -/

theorem ckRate_iff (c : BuildConfig) :
    ckRate c = true ↔
      (c.DECIM = 1 ∨ c.DECIM = 2 ∨ c.DECIM = 4) ∧ c.TICK_RATE = c.AUDIO_RATE * c.DECIM ∧ 1 ≤ c.AUDIO_RATE := by
  simp [ckRate, and_assoc, or_assoc]

theorem ckBias_iff (c : BuildConfig) :
    ckBias c = true ↔
      2 ∣ c.RANGE ∧ 2 ≤ c.RANGE ∧ c.BIAS * 2 = c.RANGE ∧
      (c.RANGE : Int) - 1 - c.BIAS ≤ 32767 ∧ c.BIAS ≤ 32768 := by
  simp [ckBias, and_assoc, Nat.dvd_iff_mod_eq_zero]

theorem ckPeriod_iff (c : BuildConfig) :
    ckPeriod c = true ↔
      c.CLOCK_HZ = c.PRESCALER * c.TICK_RATE * c.TOP * c.SLOPE ∧ (c.SLOPE = 1 ∨ c.SLOPE = 2) ∧
      1 ≤ c.PRESCALER ∧ 1 ≤ c.TOP := by
  simp [ckPeriod, and_assoc]

theorem ckPin_iff (pinSupported : BuildConfig → Bool) (c : BuildConfig) :
    ckPin pinSupported c = true ↔ pinSupported c = true ∨ c.HAS_OUT = 0 := by
  simp [ckPin, or_comm]

theorem configChecked_iff (pinSupported : BuildConfig → Bool) (c : BuildConfig) :
    configChecked pinSupported c = true ↔
      c.wf = true ∧ ckRate c = true ∧ ckBias c = true ∧ ckAcc c = true ∧ ckTop c = true ∧ ckPeriod c = true ∧
      ckPin pinSupported c = true := by
  simp [configChecked, and_assoc]

/-- Dividing by `2^SHIFT` is the shift R150 writes. -/
theorem rescaledBiased_eq_shiftRight (c : BuildConfig) (b : Nat) : rescaledBiased c b = (b * c.MULT) >>> c.SHIFT :=
  (Nat.shiftRight_eq_div_pow ..).symm

theorem rescaledBiased_mono (c : BuildConfig) {b b' : Nat} (h : b ≤ b') : rescaledBiased c b ≤ rescaledBiased c b' :=
  Nat.div_le_div_right (Nat.mul_le_mul_right _ h)

theorem accurateAt_iff (c : BuildConfig) (b : Nat) :
    accurateAt c b = true ↔ |(rescaledBiased c b : Int) * c.TRUE_DEN - b * c.TRUE_NUM| ≤ c.TRUE_DEN := by
  rw [accurateAt, decide_eq_true_iff, ← Int.natCast_natAbs, Int.ofNat_le]

theorem ckAcc_iff (c : BuildConfig) :
    ckAcc c = true ↔
      1 ≤ c.TRUE_DEN ∧ ∀ b < c.RANGE,
        |(rescaledBiased c b : Int) * c.TRUE_DEN - b * c.TRUE_NUM| ≤ c.TRUE_DEN := by
  simp [ckAcc, accurateAt_iff]

/-- The check at `RANGE-1` is the check at every biased value: the rescaling is monotone (R151). -/
theorem ckTop_iff (c : BuildConfig) : ckTop c = true ↔ ∀ b ≤ c.RANGE - 1, rescaledBiased c b ≤ c.TOP := by
  rw [ckTop, decide_eq_true_iff]
  exact ⟨fun h b hb => (rescaledBiased_mono c hb).trans h, fun h => h _ le_rfl⟩

/-- Settles O55, check by check; `CK_ACC` and `CK_PIN` as log entry 11 reads them. -/
theorem buildChecksAreThePredicates : Obligations.BuildChecksAreThePredicates := by
  intro pinSupported c
  simp only [← rescaledBiased_eq_shiftRight]
  exact ⟨ckRate_iff c, ckBias_iff c, ckAcc_iff c, ckTop_iff c, ckPeriod_iff c, ckPin_iff pinSupported c,
    configChecked_iff pinSupported c⟩

/-! ## Deployment (R154, R171) -/

theorem Check.mem_all (k : Check) : k ∈ Check.all := by
  cases k <;> decide

theorem mem_failedChecks (pinSupported : BuildConfig → Bool) (c : BuildConfig) (k : Check) :
    k ∈ failedChecks pinSupported c ↔ k.passes pinSupported c = false := by
  simp [failedChecks, Check.mem_all]

theorem failedChecks_eq_nil_iff (pinSupported : BuildConfig → Bool) (c : BuildConfig) :
    failedChecks pinSupported c = [] ↔ configChecked pinSupported c = true := by
  rw [configChecked_iff, failedChecks, List.filter_eq_nil_iff]
  simp [Check.all, Check.passes]

/-- With no check failed the machine is built from the record's parameters. -/
theorem deploy_of_toConfig {pinSupported : BuildConfig → Bool} {c : BuildConfig} {cfg : Config}
    (h : failedChecks pinSupported c = []) (hcfg : toConfig c = some cfg) :
    deploy pinSupported c = .ok (State.powerOn cfg) := by
  rw [deploy, h, hcfg]

/-- With a check failed there is no machine, whatever the parameters. -/
theorem deploy_of_failed {pinSupported : BuildConfig → Bool} {c : BuildConfig}
    (h : failedChecks pinSupported c ≠ []) :
    deploy pinSupported c = .error (failedChecks pinSupported c) := by
  unfold deploy
  split
  next hnil _ => exact absurd hnil h
  next => rfl

/-- Settles O49: the list of failed checks is empty exactly if `ConfigChecked` holds, and it is the diagnostic (log
entry 19). -/
theorem onlyCheckedConfigurationsDeploy : Obligations.OnlyCheckedConfigurationsDeploy := by
  intro pinSupported c
  constructor
  · intro hchecked
    obtain ⟨cfg, hcfg⟩ := exists_toConfig_of_wf ((configChecked_iff pinSupported c).1 hchecked).1
    exact ⟨cfg, hcfg, deploy_of_toConfig ((failedChecks_eq_nil_iff pinSupported c).2 hchecked) hcfg⟩
  · intro hunchecked
    have hfailed : failedChecks pinSupported c ≠ [] := fun hnil => by
      simp [(failedChecks_eq_nil_iff pinSupported c).1 hnil] at hunchecked
    exact ⟨_, deploy_of_failed hfailed, hfailed, mem_failedChecks pinSupported c⟩

/-! ## What the checks promise of the deployed block -/

/-- The machine biases a sample by the record's `BIAS` (R101). -/
theorem HasNumbersOf.biased_eq {cfg : Config} {c : BuildConfig} (h : HasNumbersOf cfg c) (s : Sample) :
    biased cfg s = s.toInt + c.BIAS := by
  rw [biased, h.BIAS]

/-- The machine rescales as the checks do (R104, R150). -/
theorem HasNumbersOf.rescale_eq {cfg : Config} {c : BuildConfig} (h : HasNumbersOf cfg c) (b : Nat) :
    rescale cfg b = rescaledBiased c b := by
  rw [rescale, rescaledBiased, h.MULT, h.SHIFT]

/-- The low clamp does not engage on a value that is not negative (R102). -/
theorem lowClamp_of_nonneg {b : Int} (h : 0 ≤ b) : lowClamp b = b.toNat := by
  rw [lowClamp, max_eq_left h]

/-- Every nominal sample has a biased value in `0 .. RANGE-1` (R101). -/
theorem biased_of_nominal {c : BuildConfig} {cfg : Config} (hcfg : toConfig c = some cfg) {s : Sample}
    (hlow : -(c.BIAS : Int) ≤ s.toInt) (hhigh : s.toInt ≤ (c.RANGE : Int) - 1 - c.BIAS) :
    0 ≤ biased cfg s ∧ biased cfg s ≤ (c.RANGE : Int) - 1 := by
  rw [(hasNumbersOf_of_toConfig hcfg).biased_eq]
  omega

/-- With `CK_TOP` no clamp engages on a biased value in `0 .. RANGE-1` (R151). -/
theorem scaleSat_toNat_of_ckTop {c : BuildConfig} {cfg : Config} (htop : ckTop c = true)
    (hcfg : toConfig c = some cfg) {s : Sample} (hnonneg : 0 ≤ biased cfg s)
    (hlt : biased cfg s ≤ (c.RANGE : Int) - 1) :
    (scaleSat cfg s).toNat = rescaledBiased c (biased cfg s).toNat := by
  have hnum := hasNumbersOf_of_toConfig hcfg
  rw [scaleSat_toNat, lowClamp_of_nonneg hnonneg, hnum.rescale_eq, hnum.TOP]
  exact min_eq_left ((ckTop_iff c).1 htop _ (by omega))

/-- Settles O50: `CK_BIAS` bounds both ends of the nominal range, and the bias moves it to `0 .. RANGE-1`. -/
theorem nominalSamplesFitAndBiasIntoRange : Obligations.NominalSamplesFitAndBiasIntoRange := by
  intro c hbias
  obtain ⟨-, -, -, hhigh, hlow⟩ := (ckBias_iff c).1 hbias
  exact ⟨⟨by omega, hhigh⟩, fun cfg hcfg s => biased_of_nominal hcfg⟩

/-- Settles O51: without a clamp the value of the scaler is the rescaled value `CK_ACC` speaks of. -/
theorem deployedScalerIsAccurate : Obligations.DeployedScalerIsAccurate := by
  intro pinSupported c cfg s hchecked hcfg hlow hhigh
  obtain ⟨-, -, -, hacc, htop, -⟩ := (configChecked_iff pinSupported c).1 hchecked
  obtain ⟨hnonneg, hlt⟩ := biased_of_nominal hcfg hlow hhigh
  have hvalue := scaleSat_toNat_of_ckTop htop hcfg hnonneg hlt
  have hwithin := ((ckAcc_iff c).1 hacc).2 (biased cfg s).toNat (by omega)
  rw [Int.toNat_of_nonneg hnonneg, ← hvalue] at hwithin
  exact ⟨hvalue, hwithin⟩

/-- Settles O52: by `CK_RATE` the ticks are `DECIM` times the frames, so the rate invariant divides them evenly. -/
theorem deployedBlockRunsAtTheAudioRate : Obligations.DeployedBlockRunsAtTheAudioRate := by
  intro pinSupported c s₀ s seconds hchecked hcfg hstart
  obtain ⟨-, hrate, -⟩ := (configChecked_iff pinSupported c).1 hchecked
  obtain ⟨-, hticks, -⟩ := (ckRate_iff c).1 hrate
  have hdecim : s.cfg.DECIM.toNat = c.DECIM := by
    rw [exec_cfg hstart, (hasNumbersOf_of_toConfig hcfg).DECIM]
  have htotal : c.TICK_RATE * seconds = s.cfg.DECIM.toNat * (c.AUDIO_RATE * seconds) := by
    rw [hticks, hdecim, Nat.mul_comm c.AUDIO_RATE, Nat.mul_assoc]
  obtain ⟨t, outs, hrun, -, -, hcount, hpulls, -, hboundaries, -⟩ :=
    rateInvariantAfterStart s₀ s (c.TICK_RATE * seconds) hstart
  rw [htotal, Nat.mul_div_cancel_left _ (Decim.toNat_pos _)] at hpulls hboundaries
  rw [htotal, Nat.mul_mod_right] at hcount
  exact ⟨t, outs, hrun, hpulls, hboundaries, BitVec.eq_of_toNat_eq hcount⟩

end Sys2Proof.Machine

/-! The statements of 60_exceptions.md: the enable and the pending flag of the tick (R175, R176), same-cycle events
(R177), and the outcomes that are no steps of the block (R185). -/

namespace Sys2Proof.Machine

/-! ## The enable and the pending flag (R175, R176) -/

/-- Settles O32, operation by operation: `SERVICE` clears the flag before it counts, and counting leaves it. -/
theorem pendingFlagSetAndCleared : Obligations.PendingFlagSetAndCleared := by
  intro i s t h
  cases i with
  | service =>
    obtain ⟨-, -, rfl⟩ := exec_service_cases h
    simp
  | tick =>
    cases h
    cases hEN : s.block.EN <;> simp [hEN]
  | nop | start | stop | rd _ | reset =>
    cases h
    simp

/-- Who writes the enable. -/
theorem exec_EN {i : Instr} {s t : State} (h : exec i s = .next t) :
    t.block.EN = if i = .start then true else if i = .stop ∨ i = .reset then false else s.block.EN := by
  cases i with
  | service =>
    obtain ⟨-, -, rfl⟩ := exec_service_cases h
    simp
  | nop | start | stop | rd _ | tick | reset =>
    cases h
    simp

/-- Without the enable `SERVICE` has no step, pending or not. -/
theorem exec_service_of_disabled {s : State} (hEN : s.block.EN = false) : exec .service s = .refused .noStep :=
  exec_service_of_not_guard s fun hguard => absurd (hEN.symm.trans hguard.1) (by decide)

/-- Settles O33: the writers of the enable, and with `EN = 0` a discarded tick and a false guard. -/
theorem enableSetAndCleared : Obligations.EnableSetAndCleared :=
  ⟨fun _ _ _ => exec_EN, fun s hEN => ⟨exec_service_of_disabled hEN, _, exec_tick s,
    congrArg Block.IF (raiseTick_of_disabled hEN)⟩⟩

/-! ## Same-cycle events (R177) -/

/-- Every operation but `SERVICE` has a step at every state. -/
theorem exists_exec_of_ne_service {i : Instr} (hi : i ≠ .service) (s : State) : ∃ t, exec i s = .next t := by
  cases i with
  | service => exact absurd rfl hi
  | nop | start | stop | rd _ | tick | reset => exact ⟨_, rfl⟩

/-- A list without `SERVICE` runs from every state. -/
theorem exists_runEvents_of_no_service {is : List Instr} (h : ∀ i ∈ is, i ≠ .service) (s : State) :
    ∃ t outs, runEvents is s = .next (t, outs) := by
  induction is generalizing s with
  | nil => exact ⟨s, [], rfl⟩
  | cons i is ih =>
    obtain ⟨hi, his⟩ := List.forall_mem_cons.1 h
    obtain ⟨u, hexec⟩ := exists_exec_of_ne_service hi s
    obtain ⟨t, outs, hrun⟩ := ih his u
    exact ⟨t, u.out :: outs, by rw [runEvents_cons, hexec, andThen_next, hrun, andThen_next]⟩

/-- The pulses bring no `SERVICE` of their own: it is no host command. -/
theorem ne_service_of_mem_pulseEvents {p : InPulses} {cmd : List Instr} (hcmd : ∀ i ∈ cmd, i.agent = .host)
    {i : Instr} (hi : i ∈ pulseEvents p cmd) : i ≠ .service := by
  rintro rfl
  rw [pulseEvents, List.mem_append, List.mem_append] at hi
  obtain (hrst | hhost) | htick := hi
  · split at hrst <;> simp at hrst
  · exact absurd (hcmd _ hhost) (by decide)
  · split at htick <;> simp at htick

/-- A cycle whose byte is a command: the run of its events, and then of its `SERVICE` if there is one. -/
theorem cycle_of_command {p : InPulses} {cmd : List Instr} (hcmd : cmdEvents p.cmd = .ok cmd) (s : State) :
    cycle p s =
      andThen (runEvents (pulseEvents p cmd) s) fun r =>
        andThen (runEvents (serviceEvents p r.1) r.1) fun q => .next (q.1, r.2 ++ q.2) := by
  rw [cycle, hcmd]

/-- `SERVICE` runs last in a cycle it falls in, if its guard holds after the others. -/
theorem cycle_of_serviced {p : InPulses} {cmd : List Instr} {s t u : State} {outs : List Output}
    (hcmd : cmdEvents p.cmd = .ok cmd) (hrun : runEvents (pulseEvents p cmd) s = .next (t, outs))
    (hp : p.service = true) (hservice : exec .service t = .next u) :
    cycle p s = .next (u, outs ++ [u.out]) := by
  have hpending : TickPending t := (exists_exec_service_iff t).1 ⟨u, hservice⟩
  rw [cycle_of_command hcmd, hrun, andThen_next, serviceEvents_of_guard p t hp hpending, runEvents_cons, hservice]
  rfl

/-- Else the cycle ends with its other events. -/
theorem cycle_of_not_serviced {p : InPulses} {cmd : List Instr} {s t : State} {outs : List Output}
    (hcmd : cmdEvents p.cmd = .ok cmd) (hrun : runEvents (pulseEvents p cmd) s = .next (t, outs))
    (hnot : ¬ (p.service = true ∧ TickPending t)) :
    cycle p s = .next (t, outs) := by
  rw [cycle_of_command hcmd, hrun, andThen_next, serviceEvents_of_not_guard p t hnot, runEvents_nil, andThen_next,
    List.append_nil]

/-- Sequencing is associative. -/
theorem andThen_assoc {σ τ υ φ ρ : Type} (o : Host.Outcome σ φ ρ) (f : σ → Host.Outcome τ φ ρ)
    (g : τ → Host.Outcome υ φ ρ) : andThen (andThen o f) g = andThen o fun s => andThen (f s) g := by
  cases o <;> rfl

/-- A `RESET` in a cycle is a step before the cycle of the other events. -/
theorem cycle_of_reset {s r : State} (hreset : exec .reset s = .next r) (cmd : Option Byte) (tick service : Bool) :
    cycle { rst := true, cmd := cmd, tick := tick, service := service } s =
      andThen (cycle { rst := false, cmd := cmd, tick := tick, service := service } r) fun q =>
        .next (q.1, r.out :: q.2) := by
  cases hcmd : cmdEvents cmd with
  | error _ => simp only [cycle, hcmd, andThen_refused]
  | ok host =>
    have hfirst : pulseEvents { rst := true, cmd := cmd, tick := tick, service := service } host =
        .reset :: pulseEvents { rst := false, cmd := cmd, tick := tick, service := service } host := rfl
    rw [cycle_of_command hcmd, cycle_of_command hcmd, hfirst, runEvents_cons, hreset]
    simp only [andThen_next, andThen_assoc]
    rfl

/-- The cycle with the `RESET` ends where the cycle of the others ends, with one record more in front. -/
theorem cycle_of_reset_eq_next_iff {s r t : State} {outs : List Output} (hreset : exec .reset s = .next r)
    (cmd : Option Byte) (tick service : Bool) :
    cycle { rst := true, cmd := cmd, tick := tick, service := service } s = .next (t, r.out :: outs) ↔
      cycle { rst := false, cmd := cmd, tick := tick, service := service } r = .next (t, outs) := by
  rw [cycle_of_reset hreset, andThen_eq_next]
  constructor
  · rintro ⟨q, hcycle, hq⟩
    cases hq
    exact hcycle
  · intro hcycle
    exact ⟨_, hcycle, rfl⟩

/-- The four host commands by name (R10). -/
theorem agent_eq_host_iff (i : Instr) :
    i.agent = .host ↔ i = .nop ∨ i = .start ∨ i = .stop ∨ ∃ idx, i = .rd idx := by
  cases i <;> simp [Instr.agent]

/-- A cycle is the run of its events in the fixed order, with `SERVICE` last if it falls in the cycle and its guard
holds. -/
theorem cycle_runs_in_order {p : InPulses} {cmd : Option Instr} (hcmd : p.cmd = cmd.map encode)
    (hhost : ∀ i ∈ cmd, i.agent = .host) (s : State) :
    ∃ t outs, runEvents (pulseEvents p cmd.toList) s = .next (t, outs) ∧
      (p.service = true ∧ TickPending t →
        ∃ u, exec .service t = .next u ∧ cycle p s = .next (u, outs ++ [u.out])) ∧
      (¬ (p.service = true ∧ TickPending t) → cycle p s = .next (t, outs)) := by
  have hevents : cmdEvents p.cmd = .ok cmd.toList := hcmd ▸ cmdEvents_encode cmd hhost
  have hlist : ∀ i ∈ cmd.toList, i.agent = .host := fun i hi => hhost i (Option.mem_toList.1 hi)
  obtain ⟨t, outs, hrun⟩ := exists_runEvents_of_no_service (fun i => ne_service_of_mem_pulseEvents (p := p) hlist) s
  refine ⟨t, outs, hrun, fun ⟨hp, hpending⟩ => ?_, cycle_of_not_serviced hevents hrun⟩
  obtain ⟨u, hservice⟩ := (exists_exec_service_iff t).2 hpending
  exact ⟨u, hservice, cycle_of_serviced hevents hrun hp hservice⟩

/-- A `STOP` wins over a `TICK` of its cycle: the tick is discarded and no `SERVICE` follows. -/
theorem exists_cycle_stop_tick (s : State) (service : Bool) :
    ∃ t outs, cycle { rst := false, cmd := some 0x20, tick := true, service := service } s = .next (t, outs) ∧
      t.block.EN = false ∧ t.block.IF = false := by
  obtain ⟨t, outs, hrun, hEN, hIF⟩ : ∃ t outs, runEvents [.stop, .tick] s = .next (t, outs) ∧
      t.block.EN = false ∧ t.block.IF = false := ⟨_, _, rfl, rfl, rfl⟩
  have hnot : ¬ (service = true ∧ TickPending t) := fun h => absurd (hEN.symm.trans h.2.1) (by decide)
  exact ⟨t, outs, cycle_of_not_serviced (cmd := [.stop]) rfl hrun hnot, hEN, hIF⟩

/-- The state `START` leaves. -/
def started (s : State) : State := s.after (initialise s.cfg true s.block) Output.empty

@[simp] theorem started_cfg (s : State) : (started s).cfg = s.cfg := rfl
@[simp] theorem started_EN (s : State) : (started s).block.EN = true := initialise_EN ..
@[simp] theorem started_TICK_CNT (s : State) : (started s).block.TICK_CNT = 0 := initialise_TICK_CNT ..

theorem exec_start_eq_started (s : State) : exec .start s = .next (started s) := rfl

/-- The first tick of a new run is pending at the started block. -/
theorem runEvents_start_tick (s : State) :
    runEvents [.start, .tick] s =
      .next ((started s).after (raiseTick (started s).block) Output.empty, [Output.empty, Output.empty]) := rfl

/-- A `START` and a `TICK` in one cycle leave the first tick of the new run pending. -/
theorem exists_cycle_start_tick (s : State) :
    ∃ t outs, cycle { rst := false, cmd := some 0x10, tick := true, service := false } s = .next (t, outs) ∧
      t.block.EN = true ∧ t.block.IF = true ∧ t.block.TICK_CNT = 0 := by
  refine ⟨_, _, cycle_of_not_serviced (cmd := [.start]) rfl (runEvents_start_tick s) nofun, ?_, ?_, ?_⟩
  · rw [State.after_block, raiseTick_EN, started_EN]
  · rw [State.after_block, raiseTick_IF, started_EN, Bool.true_or]
  · rw [State.after_block, raiseTick_TICK_CNT, started_TICK_CNT]

/-- One serviced tick is a boundary only with `DECIM = 1`. -/
theorem Decim.one_mod_toNat (d : Decim) : 1 % d.toNat = if d.toNat ≤ 1 then 0 else 1 := by
  cases d <;> rfl

/-- With its `SERVICE` in the cycle too, the first tick of the new run is served there. -/
theorem exists_cycle_start_tick_service (s : State) :
    ∃ t outs, cycle { rst := false, cmd := some 0x10, tick := true, service := true } s = .next (t, outs) ∧
      runEvents [.start, .tick, .service] s = .next (t, outs) ∧
      t.block.EN = true ∧ t.block.IF = false ∧ t.block.TICK_CNT.toNat = 1 % s.cfg.DECIM.toNat := by
  have hts := runEvents_ts (started_EN s)
  rw [Pseudo.expand] at hts
  have hservice := exec_service_after_tick (started_EN s)
  refine ⟨servicedTick (started s), _, cycle_of_serviced (cmd := [.start]) rfl (runEvents_start_tick s) rfl hservice,
    ?_, (servicedTick_EN _).trans (started_EN s), servicedTick_IF _, ?_⟩
  · rw [runEvents_cons, exec_start_eq_started, andThen_next, hts]
    rfl
  · rw [servicedTick_TICK_CNT_toNat, Decim.one_mod_toNat]
    simp [AtBoundary]

/-- Settles O47: a cycle is a run of its events, and each consequence is the run of its two or three. -/
theorem sameCycleOrder : Obligations.SameCycleOrder :=
  ⟨fun s rst tick service cmd hcmd =>
      cycle_runs_in_order (p := { rst := rst, cmd := cmd.map encode, tick := tick, service := service }) rfl
        (fun i hi => (agent_eq_host_iff i).2 (hcmd i hi)) s,
    exists_cycle_stop_tick, exists_cycle_start_tick, exists_cycle_start_tick_service,
    fun _ _ _ cmd tick service _ hreset => cycle_of_reset_eq_next_iff hreset cmd tick service⟩

/-! ## What is no step of the block (R185) -/

/-- From a state where `step` is refused no number of steps ends in a next state. -/
theorem core_run_ne_next_of_step_refused {s : State} {r : Refusal} (h : step s = .refused r) (k : Nat) (t : State) :
    Host.Core.run Sys2Proof.core (k + 1) s ≠ .next t := by
  intro hrun
  obtain ⟨u, hstep, -⟩ := core_run_succ_cases hrun
  cases h.symm.trans hstep

/-- `SERVICE` as the next event, without its guard, is no step. -/
theorem step_of_unguarded_service {s : State} {b : Byte} {rest : List Byte} (hs : s.events = b :: rest)
    (hb : decode b = some .service) (hguard : ¬ TickPending s) : step s = .refused .noStep := by
  rw [step_of_cons hs, runByte_of_decode hb]
  exact exec_service_of_not_guard _ hguard

/-- Settles O26: both events are refused, each by its own name, and a refused step ends the run. -/
theorem reservedAndUnguardedAreNoSteps : Obligations.ReservedAndUnguardedAreNoSteps := by
  constructor
  · intro s b rest hs hb
    have hstep := step_of_reserved hs hb
    exact ⟨hstep, core_run_ne_next_of_step_refused hstep⟩
  · intro s b rest hs hb hguard
    have hstep := step_of_unguarded_service hs hb hguard
    exact ⟨hstep, core_run_ne_next_of_step_refused hstep⟩

end Sys2Proof.Machine

/-! The statements of 70_reset_and_hazards.md: a step's frame (R206), the end of a run (R209), no deadlock (R205), and
the one hazard (R203). -/

namespace Sys2Proof.Machine

/-- Settles O35: the operation of the event keeps the configuration and the frames, and the step itself takes one event
off the list (log entries 1, 3 and 5). -/
theorem stepKeepsConfiguration : Obligations.StepKeepsConfiguration := by
  intro s t h
  obtain ⟨b, rest, i, -, -, hexec⟩ := step_cases h
  have hcfg := exec_cfg hexec
  obtain ⟨-, hframes⟩ := exec_env hexec
  exact ⟨hcfg, hframes, step_events h⟩

/-- Settles O27: only the exhausted list answers `runOver`, and it always does (log entry 6). -/
theorem exhaustedListEndsTheRun : Obligations.ExhaustedListEndsTheRun :=
  fun s => (step_eq_runOver_iff s).2

/-! ## No deadlock (R205) -/

/-- A run that ends in a next state has an event for each of its steps. -/
theorem core_run_le_length {k : Nat} {s t : State} (h : Host.Core.run Sys2Proof.core k s = .next t) :
    k ≤ s.events.length := by
  induction k generalizing s with
  | zero => exact Nat.zero_le _
  | succ k ih =>
    obtain ⟨u, hstep, hrun⟩ := core_run_succ_cases h
    obtain ⟨b, hs⟩ := step_events hstep
    rw [hs, List.length_cons]
    exact Nat.succ_le_succ (ih hrun)

/-- Under (I1) a pending tick is all that `SERVICE` waits for. -/
theorem exists_exec_service_iff_pending {s : State} (hI1 : PendingOnlyWhileEnabled s) :
    (∃ t, exec .service s = .next t) ↔ s.block.IF = true :=
  (exists_exec_service_iff s).trans (and_iff_right_of_imp hI1)

/-- Settles O29: `SERVICE` alone has a guard, (I1) reduces it to the pending flag, and a step costs an event. -/
theorem onlyServiceCanBeDisabled : Obligations.OnlyServiceCanBeDisabled :=
  ⟨fun _ s hi => exists_exec_of_ne_service hi s, fun _ => exists_exec_service_iff_pending,
    fun _ _ _ hk hrun => Nat.not_le_of_lt hk (core_run_le_length hrun)⟩

/-! ## The hazard (R203, R86, R172) -/

/-- What `PromptService` says of the first event and of the list after it. -/
theorem promptFrom_cons_cases {owed : Bool} {i : Instr} {is : List Instr} {s : State}
    (h : promptFrom owed (i :: is) s = true) :
    ¬ (i = .tick ∧ s.block.EN = true ∧ owed = true) ∧
      ∀ t, exec i s = .next t → promptFrom (owedAfter owed i s) is t = true := by
  rw [promptFrom, Bool.and_eq_true] at h
  obtain ⟨hfirst, hrest⟩ := h
  refine ⟨fun ⟨htick, hEN, howed⟩ => ?_, fun t hexec => ?_⟩
  · simp [htick, hEN, howed] at hfirst
  · rwa [hexec] at hrest

/-- A lost tick is a tick with both flags set (R86). -/
theorem isLostTick_iff (i : Instr) (s : State) :
    isLostTick i s = true ↔ i = .tick ∧ s.block.EN = true ∧ s.block.IF = true := by
  simp [isLostTick, and_assoc]

/-- A run loses no tick if its first event is none and the rest, if the event has a step, loses none. -/
theorem lostTicks_cons_eq_zero {i : Instr} {is : List Instr} {s : State} (hfirst : ¬ isLostTick i s = true)
    (hrest : ∀ t, exec i s = .next t → lostTicks is t = 0) : lostTicks (i :: is) s = 0 := by
  rw [lostTicks, if_neg hfirst, Nat.zero_add]
  cases hexec : exec i s with
  | next t => exact hrest t hexec
  | fault _ | refused _ => rfl

/-- A pending tick is one that is owed a `SERVICE`, at the start and after every step: what sets the flag sets the
debt, and only `SERVICE`, which clears the flag, pays it (log entry 13). -/
theorem owedAfter_of_pending {owed : Bool} {i : Instr} {s t : State} (howed : s.block.IF = true → owed = true)
    (h : exec i s = .next t) (hIF : t.block.IF = true) : owedAfter owed i s = true := by
  rw [pendingFlagSetAndCleared i s t h] at hIF
  cases i with
  | nop | rd _ => exact howed (by simpa using hIF)
  | tick =>
    rw [owedAfter, Bool.or_eq_true]
    cases hEN : s.block.EN with
    | true => exact .inr rfl
    | false => exact .inl (howed (by simpa [hEN] using hIF))
  | service | start | stop | reset => simp at hIF

/-- `PromptService` from a debt that covers the pending tick loses no tick: a lost tick would be a tick taken while a
`SERVICE` is owed. -/
theorem lostTicks_eq_zero_of_promptFrom {owed : Bool} {is : List Instr} {s : State}
    (howed : s.block.IF = true → owed = true) (h : promptFrom owed is s = true) : lostTicks is s = 0 := by
  induction is generalizing owed s with
  | nil => rfl
  | cons i is ih =>
    obtain ⟨hfirst, hrest⟩ := promptFrom_cons_cases h
    refine lostTicks_cons_eq_zero (fun hlost => ?_) fun t hexec => ?_
    · obtain ⟨htick, hEN, hIF⟩ := (isLostTick_iff i s).1 hlost
      exact hfirst ⟨htick, hEN, howed hIF⟩
    · exact ih (owedAfter_of_pending howed hexec) (hrest t hexec)

/-- Settles O42: at the start the debt is the pending flag itself. -/
theorem promptRunLosesNoTick : Obligations.PromptRunLosesNoTick :=
  fun _ _ => lostTicks_eq_zero_of_promptFrom id

end Sys2Proof.Machine
